-- ==== Sys2Proof/Word.lean ====
section
/-! DEFINITION. The value widths of the block (00_scope.md R8). Bytes, addresses and lengths are bit vectors; counts and
sequence lengths are natural numbers (R9). No value is signed. -/

namespace Sys2Proof

/-- A byte: an 8-bit unsigned value (R8). -/
abbrev Byte := BitVec 8

/-- A destination address: a 64-bit unsigned integer (R8). -/
abbrev Addr64 := BitVec 64

/-- A declared length: a 16-bit unsigned integer (R8). -/
abbrev Len16 := BitVec 16

end Sys2Proof
end

