-- ==== Sys2Proof/Config.lean ====
section
/-! DEFINITION. What is fixed when the block is built: its parameters (00_scope.md R6), its constants (R7), and the one
free value the spec leaves open (93_implementation_defined.md U1). -/

namespace Sys2Proof.Config

/-- The three build parameters (R6). No command reads or writes them (10_state.md R28). -/
structure Params where
  /-- `P_TX_MAX_FRAME`: maximum total size in bytes of an encoded frame, start marker to checksum. -/
  txMaxFrame : Nat
  /-- `P_RX_BUF_CAP`: capacity in bytes of the accumulated-buffer, body plus checksum. -/
  rxBufCap : Nat
  /-- `P_MIN_LEN`: smallest declared length the decoder accepts. -/
  minLen : Nat
deriving DecidableEq, Repr

/-- The spec's chosen values (R6). -/
def defaultParams : Params := ⟨128, 128, 7⟩

/-- The legal ranges of R6. -/
abbrev Params.Legal (p : Params) : Prop :=
  (18 ≤ p.txMaxFrame ∧ p.txMaxFrame ≤ 65539) ∧ (p.minLen + 1 ≤ p.rxBufCap ∧ p.rxBufCap ≤ 65536) ∧
    (1 ≤ p.minLen ∧ p.minLen ≤ 12)

/-- Start marker (R7). -/
def START : Byte := 0x7E
/-- Frame type of the encoder's output, transmit-request (R7). -/
def T_TXREQ : Byte := 0x10
/-- Receive-packet frame type (R7). -/
def T_RXPKT : Byte := 0x90
/-- Transmit-status frame type (R7). -/
def T_TXSTAT : Byte := 0x8B
/-- The frame-id the encoder writes (R7). -/
def FRAME_ID : Byte := 0x01
/-- 16-bit network-address placeholder, sent high byte first (R7, 20_memory.md R40). -/
def ADDR16_UNKNOWN : BitVec 16 := 0xFFFE
/-- Broadcast radius, unlimited hops (R7). -/
def RADIUS : Byte := 0x00
/-- Transmit options, request delivery acknowledgment (R7). -/
def OPTIONS : Byte := 0x00
/-- Body bytes before the payload in a 0x10 frame (R7). -/
def TX_HDR_LEN : Nat := 14
/-- Body bytes before the payload in a 0x90 frame (R7). -/
def RX_HDR_LEN : Nat := 12
/-- Body length of the fixed 0x8B layout (R7). -/
def TXSTAT_MIN_LEN : Nat := 7
/-- Body index of the delivery-status byte (R7). -/
def TXSTAT_STATUS_IDX : Nat := 5

/-- FREE VALUE (U1, log 6). What buf[i] holds where no step has written it: nothing constrains it. -/
opaque unwrittenByte : Nat → Byte

end Sys2Proof.Config
end

