-- ==== Sys2Proof/Syntax.lean ====
section
/-! DEFINITION. The operations and table rows of the block as syntax: one constructor of `Instr` for each of the 14 rows of
spec/opcode_table.json, the decoder phases (10_state.md R21), the transactions at the command port (10_state.md R30,
30_encoding.md R66), and the three word formats of 30_encoding.md R76. -/

namespace Sys2Proof

/-- The decoder phase (10_state.md R21). -/
inductive Phase where
  | awaitingStart
  | awaitingLengthHigh
  | awaitingLengthLow
  | accumulatingBody
deriving DecidableEq, Repr

/-- One row of the opcode table with its operands (30_encoding.md R76). -/
inductive Instr where
  /-- STEP: consume one input byte (41_decoder.md R120). -/
  | step (b : Byte)
  /-- ENCODE: build one transmit-request frame (40_encoder.md R100). -/
  | encode (addr : Addr64) (payload : List Byte)
  /-- RESET (70_reset_and_hazards.md R190). -/
  | reset
  /-- RX_START: the start marker in AwaitingStart (R121). -/
  | rxStart
  /-- RX_IGNORE: any other byte in AwaitingStart (R122). -/
  | rxIgnore (b : Byte)
  /-- RX_LEN_HI: the high length byte (R123). -/
  | rxLenHi (b : Byte)
  /-- RX_LEN_LO: the low length byte (R124). -/
  | rxLenLo (b : Byte)
  /-- RX_BODY: a body byte (R125). -/
  | rxBody (b : Byte)
  /-- RX_COMPLETE: the checksum byte (R126). -/
  | rxComplete (b : Byte)
  /-- RX_FORCED_RESET: a byte in a state that violates the invariant (R128). -/
  | rxForcedReset (b : Byte)
  /-- FT_RXPKT: dispatch arm of type 0x90 (42_dispatcher.md R151). -/
  | ftRxpkt
  /-- FT_TXSTAT: dispatch arm of type 0x8B (R152). -/
  | ftTxstat
  /-- FT_TXREQ: type 0x10, the encoder's own, in the decoder (R153). -/
  | ftTxreq
  /-- FT_UNKNOWN: any other type byte `t` (R153). -/
  | ftUnknown (t : Byte)
deriving DecidableEq, Repr

/-- One transaction at the input ports `cmd`, `rx_byte`, `enc_addr`, `enc_payload` (10_state.md R30): the 2-bit selector and
what stands on the three operand ports. -/
structure CmdWord where
  sel : BitVec 2
  rxByte : Byte
  encAddr : Addr64
  encPayload : List Byte
deriving DecidableEq, Repr

/-- A word of one of the table's three formats (30_encoding.md R76). -/
inductive Encoded where
  /-- A transaction at the command port. -/
  | command (c : CmdWord)
  /-- A 10-bit transition word, the phase encoding in bits 9:8 and the input byte in bits 7:0. -/
  | transition (w : BitVec 10)
  /-- The frame-type byte of a completed frame. -/
  | frameType (t : Byte)
deriving DecidableEq, Repr

end Sys2Proof
end

