-- ==== Sys2Proof/WellFormed.lean ====
section
/-! DEFINITION. Which terms of `Instr` are rows of the table (30_encoding.md R76, the `cond` column): an RX_IGNORE byte is not
the start marker, and an FT_UNKNOWN type is none of the types that have a row of their own. Every other operand value is legal
(40_encoder.md R106: every address, every payload). -/

namespace Sys2Proof

/-- The operand checks of the table. -/
def Instr.wellFormed : Instr → Bool
  | .step _ => true
  | .encode _ _ => true
  | .reset => true
  | .rxStart => true
  | .rxIgnore b => b != Config.START
  | .rxLenHi _ => true
  | .rxLenLo _ => true
  | .rxBody _ => true
  | .rxComplete _ => true
  | .rxForcedReset _ => true
  | .ftRxpkt => true
  | .ftTxstat => true
  | .ftTxreq => true
  | .ftUnknown t => t != Config.T_RXPKT && t != Config.T_TXSTAT && t != Config.T_TXREQ

end Sys2Proof
end

