-- ==== Sys2Proof/Decode.lean ====
section
/-! DEFINITION. Decoding the three word formats of 30_encoding.md R76 and the encoder back. Decoding is total: every selector,
every 10-bit transition word and every type byte gives a row or a rejection by name. -/

namespace Sys2Proof

/-- Why a word is rejected. -/
inductive Reject where
  /-- The reserved selector 0b11 (30_encoding.md R66, R73). -/
  | reservedSelector
deriving DecidableEq, Repr

/-- What the `cond` column of the transition rows reads beside the word itself (30_encoding.md R76). -/
structure RxContext where
  /-- `P_RX_BUF_CAP`. -/
  cap : Nat
  count : Nat
  dlen : Len16
deriving DecidableEq, Repr

/-- The phase register's encoding (30_encoding.md R67). -/
def Phase.encoding : Phase → BitVec 2
  | .awaitingStart => 0b00
  | .awaitingLengthHigh => 0b01
  | .awaitingLengthLow => 0b10
  | .accumulatingBody => 0b11

/-- The phase a 2-bit value stands for (30_encoding.md R67). -/
def Phase.ofBits (w : BitVec 2) : Phase :=
  if w = 0b00 then .awaitingStart
  else if w = 0b01 then .awaitingLengthHigh
  else if w = 0b10 then .awaitingLengthLow
  else .accumulatingBody

/-- The word that selects a transition row: the phase encoding in bits 9:8, the input byte in bits 7:0 (30_encoding.md R76). -/
def transitionWord (p : Phase) (b : Byte) : BitVec 10 := p.encoding ++ b

/-- `cond` of RX_BODY: `count < dlen and count < P_RX_BUF_CAP`. -/
def RxContext.bodyRow (c : RxContext) : Bool := decide (c.count < c.dlen.toNat ∧ c.count < c.cap)

/-- `cond` of RX_COMPLETE: `count = dlen and count < P_RX_BUF_CAP`. -/
def RxContext.completeRow (c : RxContext) : Bool := decide (c.count = c.dlen.toNat ∧ c.count < c.cap)

/-- `cond` of RX_FORCED_RESET: `count > dlen or count >= P_RX_BUF_CAP`. -/
def RxContext.forcedRow (c : RxContext) : Bool := decide (c.dlen.toNat < c.count ∨ c.cap ≤ c.count)

/-- The row a transition word selects, in the table's order of precedence (30_encoding.md R76). -/
def decodeTransition (c : RxContext) (w : BitVec 10) : Instr :=
  let b : Byte := w.extractLsb' 0 8
  match Phase.ofBits (w.extractLsb' 8 2) with
  | .awaitingStart => if b = Config.START then .rxStart else .rxIgnore b
  | .awaitingLengthHigh => .rxLenHi b
  | .awaitingLengthLow => .rxLenLo b
  | .accumulatingBody =>
    if c.forcedRow then .rxForcedReset b else if c.bodyRow then .rxBody b else .rxComplete b

/-- The row a frame-type byte selects: FT_RXPKT and FT_TXSTAT before FT_UNKNOWN (30_encoding.md R65, R76). The byte 0x10 has
the documenting row FT_TXREQ (log 12). -/
def decodeFrameType (t : Byte) : Instr :=
  if t = Config.T_RXPKT then .ftRxpkt
  else if t = Config.T_TXSTAT then .ftTxstat
  else if t = Config.T_TXREQ then .ftTxreq
  else .ftUnknown t

/-- The operation a command transaction selects; an operand port the selector does not name is not read
(30_encoding.md R66, log 20). -/
def decodeCommand (c : CmdWord) : Except Reject Instr :=
  if c.sel = 0b00 then .ok (.step c.rxByte)
  else if c.sel = 0b01 then .ok (.encode c.encAddr c.encPayload)
  else if c.sel = 0b10 then .ok .reset
  else .error .reservedSelector

/-- The decoder over all three formats. -/
def decode (c : RxContext) : Encoded → Except Reject Instr
  | .command w => decodeCommand w
  | .transition w => .ok (decodeTransition c w)
  | .frameType t => .ok (decodeFrameType t)

/-- The STEP transaction; a port the operation does not use carries zero (30_encoding.md R66, log 20). -/
def CmdWord.ofStep (b : Byte) : CmdWord := ⟨0b00, b, 0, []⟩

/-- The ENCODE transaction. -/
def CmdWord.ofEncode (addr : Addr64) (payload : List Byte) : CmdWord := ⟨0b01, 0, addr, payload⟩

/-- The RESET transaction. -/
def CmdWord.ofReset : CmdWord := ⟨0b10, 0, 0, []⟩

/-- The encoder, written from the same tables (30_encoding.md R65, R66, R67, R76). -/
def encode : Instr → Encoded
  | .step b => .command (.ofStep b)
  | .encode addr payload => .command (.ofEncode addr payload)
  | .reset => .command .ofReset
  | .rxStart => .transition (transitionWord .awaitingStart Config.START)
  | .rxIgnore b => .transition (transitionWord .awaitingStart b)
  | .rxLenHi b => .transition (transitionWord .awaitingLengthHigh b)
  | .rxLenLo b => .transition (transitionWord .awaitingLengthLow b)
  | .rxBody b => .transition (transitionWord .accumulatingBody b)
  | .rxComplete b => .transition (transitionWord .accumulatingBody b)
  | .rxForcedReset b => .transition (transitionWord .accumulatingBody b)
  | .ftRxpkt => .frameType Config.T_RXPKT
  | .ftTxstat => .frameType Config.T_TXSTAT
  | .ftTxreq => .frameType Config.T_TXREQ
  | .ftUnknown t => .frameType t

/-- The context in which the `cond` column gives a word to this row: only the three AccumulatingBody rows read it. -/
def RxContext.admits (c : RxContext) : Instr → Bool
  | .rxBody _ => c.bodyRow
  | .rxComplete _ => c.completeRow
  | .rxForcedReset _ => c.forcedRow
  | .step _ | .encode _ _ | .reset | .rxStart | .rxIgnore _ | .rxLenHi _ | .rxLenLo _ => true
  | .ftRxpkt | .ftTxstat | .ftTxreq | .ftUnknown _ => true

/-- A table word in its format (log 10). A row with no fixed bits (FT_UNKNOWN) has no bits at all; a word of one byte is a
selector when it fits in the two bits of `sel`, and a frame-type byte otherwise; a word of two bytes is a 10-bit transition
word. Operand ports carry zero. -/
def tableWord (nbits w : Nat) : Option Encoded :=
  if nbits = 0 then
    if w = 0 then some (.frameType 0) else none
  else if nbits ≤ 8 then
    if w < 4 then some (.command ⟨BitVec.ofNat 2 w, 0, 0, []⟩)
    else if w < 256 then some (.frameType (BitVec.ofNat 8 w))
    else none
  else if nbits ≤ 16 then
    if w < 1024 then some (.transition (BitVec.ofNat 10 w)) else none
  else none

/-- The context in which a table word is decoded on its own: room for a body byte, so that 0x300 reads as RX_BODY (log 10). -/
def tableContext : RxContext := ⟨128, 0, 7⟩

/-- The instruction the decoder reads from a table word. -/
def decodeTableWord (nbits w : Nat) : Option Instr :=
  (tableWord nbits w).bind fun e => (decode tableContext e).toOption

end Sys2Proof
end

