-- ==== Sys2Proof/Machine/State.lean ====
section
/-! DEFINITION. The state of the block, as plain data (10_state.md R20 to R25, R30, R31, R33), what stops it, and reset. -/

namespace Sys2Proof.Machine

open Sys2Proof

/-- A storage of bytes by index: (index, byte) pairs with strictly rising indexes. An index that is not listed holds no byte
that a step has written (log 6). -/
abbrev Memory := List Host.Cell

/-- The canonical form of a storage: indexes strictly rise. -/
abbrev Memory.wf (m : Memory) : Prop := (m.map Prod.fst).Pairwise (· < ·)

/-- The union the decoder outputs (30_encoding.md R70). -/
inductive ParsedFrame where
  | receivedData (payload : List Byte)
  | transmitStatus (deliverySucceeded : Bool)
deriving DecidableEq, Repr

/-- The one error ENCODE reports: PayloadTooLarge, code E1 (60_exceptions.md R170, R171). -/
inductive EncError where
  | payloadTooLarge
deriving DecidableEq, Repr

/-- The result of ENCODE at port `enc_result` (10_state.md R30). -/
inductive EncResult where
  | ok (frame : List Byte)
  | err (e : EncError)
deriving DecidableEq, Repr

/-- The discard reason label (60_exceptions.md R176). -/
inductive Reason where
  | none
  | malformedLength
  | checksumMismatch
  | unknownFrameType
  | malformedShortBody
  | invariantReset
deriving DecidableEq, Repr

/-- Who moves next (log 2): the caller presents one transaction at the command port, or the owning loop makes one pass of
LOOP_ITERATION's body (42_dispatcher.md R156). -/
inductive Turn where
  | command (c : CmdWord)
  | poll
deriving DecidableEq, Repr

/-- Faults: the block raises none ("No error is fatal to the Decoder's ability to process subsequent bytes", 60_exceptions.md
R170), so there is no constructor (log 16). -/
inductive Fault where
deriving DecidableEq, Repr

/-- Refusals: no meaning for what was presented. -/
inductive Refusal where
  /-- Raised by an arm of `exec` for an instruction without a meaning; no arm does. Safe. -/
  | notModelled (mnemonic : String)
  /-- Raised by `step` on the reserved selector 0b11 (30_encoding.md R73, 60_exceptions.md R178). Safe. -/
  | reservedSelector
  /-- Raised by `step` in a block built with parameters outside the ranges of 00_scope.md R6
  (93_implementation_defined.md U8). Safe. -/
  | illegalParameters
  /-- Raised by the meaning of a transition or frame-type row run in a state where the table does not select that row (log 9).
  STEP never runs such a row. Safe. -/
  | rowNotSelected
deriving DecidableEq, Repr

/-- The state of one instance of the block with its ports, the transport it is connected to and the schedule of operations. -/
structure State where
  /-- The build parameters (00_scope.md R6); no step changes them (10_state.md R28). -/
  params : Config.Params
  /-- The decoder phase register (10_state.md R21). -/
  phase : Phase
  /-- The declared-length register (R22). -/
  dlen : Len16
  /-- The bytes-consumed-since-length register (R23). -/
  count : Nat
  /-- The accumulated-buffer (R24). -/
  buf : Memory
  /-- Output port `frame_out` (R30). -/
  frameOut : Option ParsedFrame
  /-- Output port `rx_data`: what the last operation wrote to the ReceivedData handler channel (R30, R155). -/
  rxData : Option (List Byte)
  /-- Output port `tx_status`: what the last operation wrote to the TransmitStatus handler channel (R30, R155). -/
  txStatus : Option Bool
  /-- Output port `enc_result`: the last ENCODE's result (R30). -/
  encResult : Option EncResult
  /-- The reason label of the last operation (60_exceptions.md R176). -/
  rxReason : Reason
  /-- Bytes the transport has available, next first (10_state.md R31). -/
  source : List Byte
  /-- Byte sequences handed to the transport's `write`, oldest first (R31, 40_encoder.md R105). -/
  sink : List (List Byte)
  /-- The operations still to be presented, next first (log 2). -/
  turns : List Turn
deriving DecidableEq, Repr

/-- The machine right after power-on (10_state.md R33, 70_reset_and_hazards.md R191), built with the spec's parameter values.
No byte of `buf` has been written, and nothing has been presented. -/
def State.reset : State where
  params := Config.defaultParams
  phase := .awaitingStart
  dlen := 0
  count := 0
  buf := []
  frameOut := none
  rxData := none
  txStatus := none
  encResult := none
  rxReason := .none
  source := []
  sink := []
  turns := []

end Sys2Proof.Machine
end

