-- ==== Sys2Proof/Machine/Operands.lean ====
section
/-! DEFINITION. Operand forms: reading the accumulated-buffer and the fields of a completed frame (20_memory.md R45,
30_encoding.md R68), and assembling length and address bytes (30_encoding.md R61, R69), all big-endian (20_memory.md R40). -/

namespace Sys2Proof.Machine

open Sys2Proof

/-- The byte listed at an index, if any. -/
def Memory.read? : Memory → Nat → Option Byte
  | [], _ => none
  | (a, b) :: m, i => if a = i then some b else Memory.read? m i

/-- `buf[i]`, the block's only memory read (00_scope.md R10). Where no step has written it, a free value (U1, log 6). -/
def State.bufRead (s : State) (i : Nat) : Byte := (s.buf.read? i).getD (Config.unwrittenByte i)

/-- `buf[a .. b)`, empty when a ≥ b (00_scope.md R9). -/
def State.bufSlice (s : State) (a b : Nat) : List Byte := (List.range' a (b - a)).map s.bufRead

/-- `frame_type = buf[0]` (30_encoding.md R68). -/
def State.frameType (s : State) : Byte := s.bufRead 0

/-- `checksum_byte = buf[dlen]` (R68). -/
def State.checksumByte (s : State) : Byte := s.bufRead s.dlen.toNat

/-- The body of a completed frame, `buf[0 .. dlen)` (20_memory.md R45). -/
def State.body (s : State) : List Byte := s.bufSlice 0 s.dlen.toNat

/-- `rx_payload = buf[12 .. dlen)` (R68). -/
def State.rxPayload (s : State) : List Byte := s.bufSlice Config.RX_HDR_LEN s.dlen.toNat

/-- `delivery_status = buf[TXSTAT_STATUS_IDX]` (R68). -/
def State.deliveryStatus (s : State) : Byte := s.bufRead Config.TXSTAT_STATUS_IDX

/-- What the `cond` column of the transition rows reads of the state (30_encoding.md R76). -/
def State.rxContext (s : State) : RxContext := ⟨s.params.rxBufCap, s.count, s.dlen⟩

/-- The word that selects the transition row for an input byte (30_encoding.md R76). -/
def State.transitionWord (s : State) (b : Byte) : BitVec 10 := Sys2Proof.transitionWord s.phase b

/-- The high byte `v[15:8]` of a 16-bit field. -/
def hiByte (v : BitVec 16) : Byte := v.extractLsb' 8 8

/-- The low byte `v[7:0]` of a 16-bit field. -/
def loByte (v : BitVec 16) : Byte := v.extractLsb' 0 8

/-- RX_LEN_HI's value of `dlen`: `zext_16(b) << 8` (41_decoder.md R123). -/
def dlenOfHigh (b : Byte) : Len16 := b.zeroExtend 16 <<< 8

/-- RX_LEN_LO's value of `dlen`: `dlen | zext_16(b)` (R124). -/
def dlenOrLow (d : Len16) (b : Byte) : Len16 := d ||| b.zeroExtend 16

/-- `addr_byte(i) = addr[63−8i : 56−8i]` for i = 0 to 7 (30_encoding.md R69). -/
def addrByte (addr : Addr64) (i : Nat) : Byte := addr.extractLsb' (56 - 8 * i) 8

/-- The eight address bytes, most significant first (20_memory.md R40). -/
def addrBytes (addr : Addr64) : List Byte := (List.range 8).map (addrByte addr)

end Sys2Proof.Machine
end

