-- ==== Sys2Proof/Machine/Flags.lean ====
section
/-! DEFINITION. The block's one flag (10_state.md R25), the checksum (30_encoding.md R72, 41_decoder.md R127), the numeric
codes of the reason labels (60_exceptions.md R176), and the conditions that select a row or an outcome. -/

namespace Sys2Proof.Machine

open Sys2Proof

/-- `parsing_in_progress = (phase ≠ AwaitingStart)`, derived and not stored (10_state.md R25). -/
def State.parsingInProgress (s : State) : Bool := s.phase != .awaitingStart

/-- `sum8(s) = (Σ s[i]) mod 256`, summed exactly and then narrowed (00_scope.md R10). -/
def sum8 (bs : List Byte) : Nat := (bs.map BitVec.toNat).sum % 256

/-- `cks(b) = 0xFF − sum8(b)` (30_encoding.md R72). -/
def checksum (body : List Byte) : Byte := BitVec.ofNat 8 (0xFF - sum8 body)

/-- `(sum8(b) + checksum_byte) mod 256 = 0xFF` (30_encoding.md R72). -/
def checksumValid (body : List Byte) (c : Byte) : Bool := (sum8 body + c.toNat) % 256 == 0xFF

/-- `checksum_ok()` of 41_decoder.md R127. -/
def State.checksumOk (s : State) : Bool := checksumValid s.body s.checksumByte

/-- The acceptance test of RX_LEN_LO, on the new declared length (41_decoder.md R124). -/
def lengthAccepted (p : Config.Params) (d : Len16) : Bool :=
  !decide (d.toNat + 1 > p.rxBufCap ∨ d.toNat < p.minLen)

/-- DISPATCH's precondition (42_dispatcher.md R150) in a state whose `count` is in the register's range (10_state.md R23),
with the type byte the row names. -/
def State.completedFrame (s : State) (t : Byte) : Bool :=
  decide (s.count = s.dlen.toNat + 1 ∧ s.count ≤ s.params.rxBufCap) && s.checksumOk && s.frameType == t

/-- The numeric code of a reason label (60_exceptions.md R176). -/
def Reason.code : Reason → Nat
  | .none => 0
  | .malformedLength => 1
  | .checksumMismatch => 2
  | .unknownFrameType => 3
  | .malformedShortBody => 4
  | .invariantReset => 5

end Sys2Proof.Machine
end

