-- ==== Sys2Proof/Machine/Ops.lean ====
section
/-! DEFINITION. The named operations over the state that the meanings are built from: writing the accumulated-buffer, the
output ports, a discard (the block's one kind of trap, 00_scope.md R11, 60_exceptions.md R178; there is no return from it,
R179), emitting and routing a frame, and the frame a successful ENCODE builds. -/

namespace Sys2Proof.Machine

open Sys2Proof

/-- Write one byte at an index and keep the indexes strictly rising. -/
def Memory.write : Memory → Nat → Byte → Memory
  | [], i, v => [(i, v)]
  | (a, b) :: m, i, v =>
    if i < a then (i, v) :: (a, b) :: m
    else if i = a then (i, v) :: m
    else (a, b) :: Memory.write m i v

/-- The outputs that exist only in the operation that produces them are absent at the start of each operation
(41_decoder.md R120 `frame_out <- none`; 60_exceptions.md R176, R180; log 4). -/
def State.clearOutputs (s : State) : State :=
  { s with frameOut := none, rxData := none, txStatus := none, rxReason := .none }

/-- `phase <- p`. -/
def State.setPhase (s : State) (p : Phase) : State := { s with phase := p }

/-- `dlen <- d`. -/
def State.setDlen (s : State) (d : Len16) : State := { s with dlen := d }

/-- `count <- n`. -/
def State.setCount (s : State) (n : Nat) : State := { s with count := n }

/-- `buf[count] <- b`, then `count <- count + 1` (41_decoder.md R125, R126). -/
def State.appendByte (s : State) (b : Byte) : State :=
  { s with buf := s.buf.write s.count b, count := s.count + 1 }

/-- `discard(reason)`: the operation ends with no frame output and records the label (00_scope.md R10). -/
def State.discard (s : State) (r : Reason) : State :=
  { s with frameOut := none, rxData := none, txStatus := none, rxReason := r }

/-- Entry of a decoder condition (60_exceptions.md R178): `phase <- AwaitingStart`, then the discard. Nothing else changes. -/
def State.enterDiscard (s : State) (r : Reason) : State := (s.setPhase .awaitingStart).discard r

/-- ROUTE(f): the frame goes to exactly one handler channel (42_dispatcher.md R155). -/
def State.route (s : State) : ParsedFrame → State
  | .receivedData payload => { s with rxData := some payload, txStatus := none }
  | .transmitStatus ok => { s with rxData := none, txStatus := some ok }

/-- `emit(f)`: the frame on `frame_out`, by value, routed in the same operation (42_dispatcher.md R154, R155). -/
def State.emit (s : State) (f : ParsedFrame) : State :=
  ({ s with frameOut := some f, rxReason := .none } : State).route f

/-- `enc_result <- r` (40_encoder.md R100). -/
def State.setEncResult (s : State) (r : EncResult) : State := { s with encResult := some r }

/-- `write(bytes)`: hand one byte sequence to the transport sink (00_scope.md R10, 40_encoder.md R105). -/
def State.transportWrite (s : State) (bytes : List Byte) : State := { s with sink := s.sink ++ [bytes] }

/-- The body of a transmit-request frame (30_encoding.md R62, 40_encoder.md R100). -/
def txBody (addr : Addr64) (payload : List Byte) : List Byte :=
  [Config.T_TXREQ, Config.FRAME_ID] ++ addrBytes addr
    ++ [hiByte Config.ADDR16_UNKNOWN, loByte Config.ADDR16_UNKNOWN]
    ++ [Config.RADIUS, Config.OPTIONS] ++ payload

/-- The envelope every frame has, in either direction (30_encoding.md R60). -/
def envelope (body : List Byte) : List Byte :=
  let len : BitVec 16 := BitVec.ofNat 16 body.length
  [Config.START, hiByte len, loByte len] ++ body ++ [checksum body]

/-- ENCODE as a function of its operands and the size bound (40_encoder.md R100, R101). -/
def encodeFrame (txMaxFrame : Nat) (addr : Addr64) (payload : List Byte) : EncResult :=
  if payload.length + 18 > txMaxFrame then .err .payloadTooLarge
  else .ok (envelope (txBody addr payload))

/-- Take the next transaction off the schedule: the caller's own, or the STEP that one pass of LOOP_ITERATION presents with the
byte it reads (42_dispatcher.md R156). No transaction where nothing is scheduled or no byte is available. -/
def nextCommand (s : State) : Option CmdWord × State :=
  match s.turns with
  | [] => (none, s)
  | .command c :: ts => (some c, { s with turns := ts })
  | .poll :: ts =>
    match s.source with
    | [] => (none, { s with turns := ts })
    | b :: bs => (some (CmdWord.ofStep b), { s with turns := ts, source := bs })

/-- The refusal a rejected transaction gives. -/
def refusalOf : Reject → Refusal
  | .reservedSelector => .reservedSelector

/-- Bytes of a short frame body of the given type, `t` and then zeros, at indexes 0 to `n - 1`. -/
def zeroBody (t : Byte) (n : Nat) : Memory :=
  (List.range n).map fun i => (i, if i = 0 then t else (0 : Byte))

/-- Put the machine where its very next operation runs the given table word (log 11). A command word is the next transaction.
A transition word is the phase register and the next STEP's byte; for the word that three rows share, count and dlen leave
room for a body byte. A frame-type byte is the first byte of a frame that lacks only its checksum byte. -/
def State.placeEncoded (s : State) : Encoded → State
  | .command c => { s with turns := .command c :: s.turns }
  | .transition w =>
    let p := Phase.ofBits (w.extractLsb' 8 2)
    let t : State := { s with phase := p, turns := .command (CmdWord.ofStep (w.extractLsb' 0 8)) :: s.turns }
    match p with
    | .accumulatingBody => { t with count := 0, dlen := BitVec.ofNat 16 s.params.minLen }
    | .awaitingStart => t
    | .awaitingLengthHigh => t
    | .awaitingLengthLow => t
  | .frameType t =>
    let n := min Config.RX_HDR_LEN (s.params.rxBufCap - 1)
    { s with phase := .accumulatingBody, dlen := BitVec.ofNat 16 n, count := n, buf := zeroBody t n,
             turns := .command (CmdWord.ofStep (checksum [t])) :: s.turns }

end Sys2Proof.Machine
end

