-- ==== Sys2Proof/Machine/FrameTypes.lean ====
section
/-! DEFINITION. The frame-type rows: DISPATCH's arms (42_dispatcher.md R150 to R153), run inside the STEP that completes a frame
with a valid checksum. None writes DecoderState (R150). A row run where the completed frame is not of its type is refused
(log 9). -/

namespace Sys2Proof.Machine

open Sys2Proof

/-- FT_RXPKT (R151). -/
def execFtRxpkt (s : State) : Host.Outcome State Fault Refusal :=
  if s.completedFrame Config.T_RXPKT then
    if s.dlen.toNat < Config.RX_HDR_LEN then .next (s.discard .malformedShortBody)
    else .next (s.emit (.receivedData s.rxPayload))
  else .refused .rowNotSelected

/-- FT_TXSTAT (R152). -/
def execFtTxstat (s : State) : Host.Outcome State Fault Refusal :=
  if s.completedFrame Config.T_TXSTAT then
    if s.dlen.toNat < Config.TXSTAT_MIN_LEN then .next (s.discard .malformedShortBody)
    else .next (s.emit (.transmitStatus (s.deliveryStatus == 0x00)))
  else .refused .rowNotSelected

/-- FT_TXREQ: the decoder treats the encoder's own type as unknown (R153, log 12). -/
def execFtTxreq (s : State) : Host.Outcome State Fault Refusal :=
  if s.completedFrame Config.T_TXREQ then .next (s.discard .unknownFrameType)
  else .refused .rowNotSelected

/-- FT_UNKNOWN, for a type byte that is neither 0x90 nor 0x8B (R153). -/
def execFtUnknown (t : Byte) (s : State) : Host.Outcome State Fault Refusal :=
  if s.completedFrame t ∧ t ≠ Config.T_RXPKT ∧ t ≠ Config.T_TXSTAT then .next (s.discard .unknownFrameType)
  else .refused .rowNotSelected

/-- DISPATCH() (R150). -/
def dispatch (s : State) : Host.Outcome State Fault Refusal :=
  if s.frameType = Config.T_RXPKT then execFtRxpkt s
  else if s.frameType = Config.T_TXSTAT then execFtTxstat s
  else if s.frameType = Config.T_TXREQ then execFtTxreq s
  else execFtUnknown s.frameType s

end Sys2Proof.Machine
end

