-- ==== Sys2Proof/Machine/Transitions.lean ====
section
/-! DEFINITION. The transition rows of the decoder (41_decoder.md R121 to R128). Each outputs nothing but what its rule says, so
each starts from absent outputs (R120). A row run where its phase or its `cond` does not hold is refused (log 9). -/

namespace Sys2Proof.Machine

open Sys2Proof

/-- RX_START (R121). -/
def execRxStart (s : State) : Host.Outcome State Fault Refusal :=
  if s.phase = .awaitingStart then
    .next (((s.clearOutputs.setPhase .awaitingLengthHigh).setDlen 0).setCount 0)
  else .refused .rowNotSelected

/-- RX_IGNORE (R122). -/
def execRxIgnore (b : Byte) (s : State) : Host.Outcome State Fault Refusal :=
  if s.phase = .awaitingStart ∧ b ≠ Config.START then .next s.clearOutputs
  else .refused .rowNotSelected

/-- RX_LEN_HI (R123). -/
def execRxLenHi (b : Byte) (s : State) : Host.Outcome State Fault Refusal :=
  if s.phase = .awaitingLengthHigh then
    .next ((s.clearOutputs.setDlen (dlenOfHigh b)).setPhase .awaitingLengthLow)
  else .refused .rowNotSelected

/-- RX_LEN_LO (R124). -/
def execRxLenLo (b : Byte) (s : State) : Host.Outcome State Fault Refusal :=
  if s.phase = .awaitingLengthLow then
    let t := s.clearOutputs.setDlen (dlenOrLow s.dlen b)
    if lengthAccepted s.params t.dlen then .next (t.setPhase .accumulatingBody)
    else .next (t.enterDiscard .malformedLength)
  else .refused .rowNotSelected

/-- RX_BODY (R125). -/
def execRxBody (b : Byte) (s : State) : Host.Outcome State Fault Refusal :=
  if s.phase = .accumulatingBody ∧ s.rxContext.bodyRow then .next (s.clearOutputs.appendByte b)
  else .refused .rowNotSelected

/-- RX_COMPLETE (R126): store the checksum byte, return to AwaitingStart, validate (R127), then dispatch. -/
def execRxComplete (b : Byte) (s : State) : Host.Outcome State Fault Refusal :=
  if s.phase = .accumulatingBody ∧ s.rxContext.completeRow then
    let t := (s.clearOutputs.appendByte b).setPhase .awaitingStart
    if t.checksumOk then dispatch t else .next (t.discard .checksumMismatch)
  else .refused .rowNotSelected

/-- RX_FORCED_RESET (R128): the byte is not stored. -/
def execRxForcedReset (_b : Byte) (s : State) : Host.Outcome State Fault Refusal :=
  if s.phase = .accumulatingBody ∧ s.rxContext.forcedRow then .next (s.clearOutputs.enterDiscard .invariantReset)
  else .refused .rowNotSelected

end Sys2Proof.Machine
end

