-- ==== Sys2Proof/Machine/Commands.lean ====
section
/-! DEFINITION. The three commands: STEP (41_decoder.md R120), ENCODE (40_encoder.md R100 to R106) and RESET
(70_reset_and_hazards.md R190). -/

namespace Sys2Proof.Machine

open Sys2Proof

/-- STEP, R120's selection of the transition row. -/
def execStep (b : Byte) (s : State) : Host.Outcome State Fault Refusal :=
  match s.phase with
  | .awaitingStart => if b = Config.START then execRxStart s else execRxIgnore b s
  | .awaitingLengthHigh => execRxLenHi b s
  | .awaitingLengthLow => execRxLenLo b s
  | .accumulatingBody =>
    if ¬ (s.count ≤ s.dlen.toNat ∧ s.count < s.params.rxBufCap) then execRxForcedReset b s
    else if s.count + 1 < s.dlen.toNat + 1 then execRxBody b s
    else execRxComplete b s

/-- ENCODE (R100): the result on `enc_result`, and on Ok one write of the whole frame to the transport (R105). -/
def execEncode (addr : Addr64) (payload : List Byte) (s : State) : Host.Outcome State Fault Refusal :=
  let r := encodeFrame s.params.txMaxFrame addr payload
  let t := s.clearOutputs.setEncResult r
  match r with
  | .ok frame => .next (t.transportWrite frame)
  | .err _ => .next t

/-- RESET (R190): `buf` is not written, and an ENCODE result already produced stays. -/
def execReset (s : State) : Host.Outcome State Fault Refusal :=
  .next (((s.clearOutputs.setPhase .awaitingStart).setDlen 0).setCount 0)

end Sys2Proof.Machine
end

