-- ==== Sys2Proof/Machine/Dispatch.lean ====
section
/-! DEFINITION. One arm per row of the opcode table. -/

namespace Sys2Proof.Machine

open Sys2Proof

def exec (i : Instr) (s : State) : Host.Outcome State Fault Refusal :=
  match i with
  -- commands
  | .step b => Sys2Proof.Machine.execStep b s
  | .encode addr payload => Sys2Proof.Machine.execEncode addr payload s
  | .reset => Sys2Proof.Machine.execReset s
  -- decoder transitions
  | .rxStart => Sys2Proof.Machine.execRxStart s
  | .rxIgnore b => Sys2Proof.Machine.execRxIgnore b s
  | .rxLenHi b => Sys2Proof.Machine.execRxLenHi b s
  | .rxLenLo b => Sys2Proof.Machine.execRxLenLo b s
  | .rxBody b => Sys2Proof.Machine.execRxBody b s
  | .rxComplete b => Sys2Proof.Machine.execRxComplete b s
  | .rxForcedReset b => Sys2Proof.Machine.execRxForcedReset b s
  -- frame-type arms
  | .ftRxpkt => Sys2Proof.Machine.execFtRxpkt s
  | .ftTxstat => Sys2Proof.Machine.execFtTxstat s
  | .ftTxreq => Sys2Proof.Machine.execFtTxreq s
  | .ftUnknown t => Sys2Proof.Machine.execFtUnknown t s

end Sys2Proof.Machine
end

