-- ==== Sys2Proof/Machine/Step.lean ====
section
/-! DEFINITION. One step of the machine: the next scheduled operation, presented at the command port, as one indivisible
transition (20_memory.md R44, R47); and where a table word is put so that the next step runs it. -/

namespace Sys2Proof.Machine

open Sys2Proof

/-- One operation. A block built with illegal parameters is refused (00_scope.md R6, U8), and so is the reserved selector
(30_encoding.md R73). With nothing to present, the block stays idle and keeps its state (60_exceptions.md R186, log 3). -/
def step (s : State) : Host.Outcome State Fault Refusal :=
  if s.params.Legal then
    match nextCommand s with
    | (none, t) => .next t.clearOutputs
    | (some c, t) =>
      match decodeCommand c with
      | .ok i => exec i t
      | .error e => .refused (refusalOf e)
  else .refused .illegalParameters

/-- The state whose very next step runs the table word (log 11). -/
def State.withFetchWord (s : State) (nbits w : Nat) : State :=
  match tableWord nbits w with
  | some e => s.placeEncoded e
  | none => s

end Sys2Proof.Machine
end

