-- ==== Sys2Proof/Safety.lean ====
section
/-! DEFINITION. The terms claims use: feeding a byte stream, the frames a stream yields, what DecoderState is, which row the
table gives to a state and a byte, the invariant of 10_state.md R26, and states that differ only in stale buffer bytes. -/

namespace Sys2Proof.Machine

open Sys2Proof

/-- STEP* (30_encoding.md R75): one STEP per byte, in order. -/
def feed : List Byte → State → Host.Outcome State Fault Refusal
  | [], s => .next s
  | b :: bs, s =>
    match exec (.step b) s with
    | .next t => feed bs t
    | .fault r => .fault r
    | .refused r => .refused r

/-- What stands on `frame_out` after each STEP of STEP*, in order. -/
def frameTrace : List Byte → State → List (Option ParsedFrame)
  | [], _ => []
  | b :: bs, s =>
    match exec (.step b) s with
    | .next t => t.frameOut :: frameTrace bs t
    | .fault _ => []
    | .refused _ => []

/-- Two states hold the same DecoderState registers (10_state.md R20); their buffers are compared byte by byte elsewhere. -/
def SameRegisters (s t : State) : Prop := t.phase = s.phase ∧ t.dlen = s.dlen ∧ t.count = s.count

/-- Two states hold the same DecoderState, buffer included (10_state.md R20). -/
def SameDecoder (s t : State) : Prop := SameRegisters s t ∧ t.buf = s.buf

/-- No frame and no handler channel is written. -/
def NoOutput (t : State) : Prop := t.frameOut = none ∧ t.rxData = none ∧ t.txStatus = none

/-- The transition rows as the opcode table gives them: phase, byte and `cond` column (30_encoding.md R76). -/
def RowApplies (s : State) (b : Byte) : Instr → Prop
  | .rxStart => s.phase = .awaitingStart ∧ b = 0x7E
  | .rxIgnore c => c = b ∧ s.phase = .awaitingStart ∧ b ≠ 0x7E
  | .rxLenHi c => c = b ∧ s.phase = .awaitingLengthHigh
  | .rxLenLo c => c = b ∧ s.phase = .awaitingLengthLow
  | .rxBody c => c = b ∧ s.phase = .accumulatingBody ∧ s.count < s.dlen.toNat ∧ s.count < s.params.rxBufCap
  | .rxComplete c => c = b ∧ s.phase = .accumulatingBody ∧ s.count = s.dlen.toNat ∧ s.count < s.params.rxBufCap
  | .rxForcedReset c =>
    c = b ∧ s.phase = .accumulatingBody ∧ (s.count > s.dlen.toNat ∨ s.count ≥ s.params.rxBufCap)
  | .step _ | .encode _ _ | .reset => False
  | .ftRxpkt | .ftTxstat | .ftTxreq | .ftUnknown _ => False

/-- DISPATCH's precondition `count = dlen + 1, checksum_ok()` (42_dispatcher.md R150), with `count` in its range (10_state.md
R23) and the checksum condition of 41_decoder.md R127. -/
def HoldsValidFrame (s : State) : Prop :=
  s.count = s.dlen.toNat + 1 ∧ s.count ≤ s.params.rxBufCap ∧
    (sum8 (s.bufSlice 0 s.dlen.toNat) + (s.bufRead s.dlen.toNat).toNat) % 256 = 0xFF

/-- The frame-type rows as the opcode table gives them: the type byte of a completed, valid frame (30_encoding.md R65, R76). -/
def ArmApplies (s : State) : Instr → Prop
  | .ftRxpkt => HoldsValidFrame s ∧ s.bufRead 0 = 0x90
  | .ftTxstat => HoldsValidFrame s ∧ s.bufRead 0 = 0x8B
  | .ftTxreq => HoldsValidFrame s ∧ s.bufRead 0 = 0x10
  | .ftUnknown t => HoldsValidFrame s ∧ s.bufRead 0 = t ∧ t ≠ 0x90 ∧ t ≠ 0x8B
  | .step _ | .encode _ _ | .reset => False
  | .rxStart | .rxIgnore _ | .rxLenHi _ | .rxLenLo _ | .rxBody _ | .rxComplete _ | .rxForcedReset _ => False

/-- A STEP in this state takes the byte that makes `count` reach `dlen + 1` (41_decoder.md R126). -/
def Completing (s : State) : Prop :=
  s.phase = .accumulatingBody ∧ s.count = s.dlen.toNat ∧ s.count < s.params.rxBufCap

/-- The state in which RX_COMPLETE validates: the byte stored, `count` advanced, back in AwaitingStart (R126). -/
def completedBy (s : State) (b : Byte) : State := (s.clearOutputs.appendByte b).setPhase .awaitingStart

/-- The one index an instruction may write in `buf` (20_memory.md R42, R43), with the condition under which STEP stores. -/
def storedIndex (s : State) : Instr → Option Nat
  | .step _ =>
    if s.phase = .accumulatingBody ∧ s.count ≤ s.dlen.toNat ∧ s.count < s.params.rxBufCap then some s.count else none
  | .rxBody _ | .rxComplete _ => some s.count
  | .encode _ _ | .reset | .rxStart | .rxIgnore _ | .rxLenHi _ | .rxLenLo _ | .rxForcedReset _ => none
  | .ftRxpkt | .ftTxstat | .ftTxreq | .ftUnknown _ => none

/-- What the wire layouts of 30_encoding.md R63 and R64 and the map of R65 give for a valid body. -/
def parsedBody (body : List Byte) : Option ParsedFrame :=
  if body.head? = some 0x90 then
    if body.length < 12 then none else some (.receivedData (body.drop 12))
  else if body.head? = some 0x8B then
    if body.length < 7 then none else some (.transmitStatus (body[5]? == some 0x00))
  else none

/-- The bytes of a frame with the given body (30_encoding.md R60, R72). -/
def frameBytes (body : List Byte) : List Byte :=
  [0x7E, BitVec.ofNat 8 (body.length / 256), BitVec.ofNat 8 body.length] ++ body
    ++ [BitVec.ofNat 8 (0xFF - sum8 body)]

/-- The invariant of 10_state.md R26, strengthened to one that every step keeps: legal parameters (R6), the registers zeroed
by the start marker while the length is read (R121, R123), the buffer in canonical form and inside its capacity (R24), and
every byte below `count` written (R32). -/
structure State.Inv (s : State) : Prop where
  legal : s.params.Legal
  count_le : s.count ≤ s.dlen.toNat + 1
  count_cap : s.count ≤ s.params.rxBufCap
  high : s.phase = .awaitingLengthHigh → s.dlen = 0 ∧ s.count = 0
  low : s.phase = .awaitingLengthLow → loByte s.dlen = 0 ∧ s.count = 0
  body : s.phase = .accumulatingBody →
    s.params.minLen ≤ s.dlen.toNat ∧ s.dlen.toNat + 1 ≤ s.params.rxBufCap ∧ s.count ≤ s.dlen.toNat
  buf_wf : s.buf.wf
  buf_cap : ∀ c ∈ s.buf, c.1 < s.params.rxBufCap
  written : ∀ i < s.count, (s.buf.read? i).isSome

/-- Two states that are equal but for the buffer, and whose buffers read alike below `count`: they differ at most in the stale
bytes (10_state.md R24, R32). -/
def DifferOnlyInStaleBytes (s t : State) : Prop :=
  t = { s with buf := t.buf } ∧ ∀ i < s.count, t.bufRead i = s.bufRead i

/-- A block just powered on with the given parameters, stream and schedule (10_state.md R33, 70_reset_and_hazards.md R191). -/
def State.powerOn (p : Config.Params) (source : List Byte) (turns : List Turn) : State :=
  { State.reset with params := p, source := source, turns := turns }

end Sys2Proof.Machine
end

