-- ==== Sys2Proof/Certificates/Slice0/Obligations.lean ====
section
/-! DEFINITION. The statements about the model, taken from the numbered rules of spec/. -/

section

open Sys2Proof Sys2Proof.Machine

/-! ### Encodings -/

/-- 30_encoding.md R65, R66, R67, R76: words written out from the tables, one or more for each family, and the reserved
selector. Selector and phase numbers are the spec's own decisions D9 and D13. -/
def Obligations.SpecWordsDecodeAsTheTablesSay : Prop :=
  (∀ c, decode c (.command ⟨0b00, 0x7E, 0, []⟩) = .ok (.step 0x7E)) ∧
  (∀ c, decode c (.command ⟨0b01, 0, 0x0013A200424974A1, [0x74, 0x65]⟩) =
    .ok (.encode 0x0013A200424974A1 [0x74, 0x65])) ∧
  (∀ c, decode c (.command ⟨0b10, 0, 0, []⟩) = .ok .reset) ∧
  (∀ c, decode c (.command ⟨0b11, 0, 0, []⟩) = .error .reservedSelector) ∧
  (∀ c, decode c (.transition 0b0001111110) = .ok .rxStart) ∧
  (∀ c, decode c (.transition 0b0001010101) = .ok (.rxIgnore 0x55)) ∧
  (∀ c, decode c (.transition 0b0101111110) = .ok (.rxLenHi 0x7E)) ∧
  (∀ c, decode c (.transition 0b1000000111) = .ok (.rxLenLo 0x07)) ∧
  decode ⟨128, 0, 7⟩ (.transition 0b1110001011) = .ok (.rxBody 0x8B) ∧
  decode ⟨128, 7, 7⟩ (.transition 0b1101110110) = .ok (.rxComplete 0x76) ∧
  decode ⟨128, 9, 7⟩ (.transition 0b1101010101) = .ok (.rxForcedReset 0x55) ∧
  decode ⟨128, 128, 200⟩ (.transition 0b1101010101) = .ok (.rxForcedReset 0x55) ∧
  (∀ c, decode c (.frameType 0b10010000) = .ok .ftRxpkt) ∧
  (∀ c, decode c (.frameType 0b10001011) = .ok .ftTxstat) ∧
  (∀ c, decode c (.frameType 0b00010000) = .ok .ftTxreq) ∧
  (∀ c, decode c (.frameType 0b10001000) = .ok (.ftUnknown 0x88))

/-- Every well-formed instruction, with every operand, decodes back from its encoding, in every context in which the `cond`
column gives the word to its row (30_encoding.md R76). -/
def Obligations.DecodeOfEncodeIsTheInstruction : Prop :=
  ∀ (i : Instr) (c : RxContext), i.wellFormed → c.admits i → decode c (encode i) = .ok i

/-- The other direction: what a word decodes to is well formed, is the row its context admits, and encodes back to that word;
for a command, to its selector and to the operand ports the selector names. -/
def Obligations.DecodedWordEncodesBack : Prop :=
  ∀ (c : RxContext) (e : Encoded) (i : Instr), decode c e = .ok i →
    i.wellFormed ∧ c.admits i ∧
      match e with
      | .command w => ∃ v, encode i = .command v ∧ v.sel = w.sel ∧ (w.sel = 0b00 → v.rxByte = w.rxByte) ∧
          (w.sel = 0b01 → v.encAddr = w.encAddr ∧ v.encPayload = w.encPayload)
      | .transition w => encode i = .transition w
      | .frameType t => encode i = .frameType t

/-- 30_encoding.md R76: exactly one transition row applies to any pair of state and byte; the decoder finds it from the word
`phase ++ rx_byte`; and STEP is that row, so R120's pseudocode and the opcode table agree. -/
def Obligations.StepRunsTheOneRowThatApplies : Prop :=
  ∀ (s : State) (b : Byte), ∃ i, RowApplies s b i ∧ (∀ j, RowApplies s b j → j = i) ∧
    decode s.rxContext (.transition (s.transitionWord b)) = .ok i ∧ exec (.step b) s = exec i s

/-- The model's choice (log 9): a transition row run where the table gives it to no byte, and a frame-type row run where the
completed frame is not its own, is refused by name. With the statements of each row it says exactly where rows run. -/
def Obligations.RowsOutOfPlaceAreRefused : Prop :=
  (∀ (s : State) (i : Instr), (∃ t b, RowApplies t b i) → (∀ b, ¬ RowApplies s b i) →
    exec i s = .refused .rowNotSelected) ∧
  (∀ (s : State) (i : Instr), (∃ t, ArmApplies t i) → ¬ ArmApplies s i → exec i s = .refused .rowNotSelected)

/-! ### The machine's step -/

/-- A transaction that stands next at the command port and decodes runs as the instruction it decodes to, in the state with
that transaction taken off the schedule. The schedule is the model's own (log 2). -/
def Obligations.StepRunsTheDecodedCommand : Prop :=
  ∀ (s : State) (c : CmdWord) (ts : List Turn) (i : Instr), s.params.Legal → s.turns = .command c :: ts →
    decode s.rxContext (.command c) = .ok i → step s = exec i { s with turns := ts }

/-- 30_encoding.md R73, 60_exceptions.md R178 (the spec's decision D17): the reserved selector is refused. -/
def Obligations.ReservedSelectorIsRefused : Prop :=
  ∀ (s : State) (c : CmdWord) (ts : List Turn), s.params.Legal → s.turns = .command c :: ts → c.sel = 0b11 →
    step s = .refused .reservedSelector

/-- 42_dispatcher.md R156 (the spec's decision D28), one pass of the loop: the byte read from the transport is presented to
STEP exactly once and leaves the source; when no byte is available the decoder keeps its state. -/
def Obligations.PollPresentsTheNextByteOnce : Prop :=
  ∀ (s : State) (ts : List Turn), s.params.Legal → s.turns = .poll :: ts →
    (∀ b bs, s.source = b :: bs → step s = exec (.step b) { s with turns := ts, source := bs }) ∧
    (s.source = [] → ∃ t, step s = .next t ∧ SameDecoder s t ∧ NoOutput t ∧ t.turns = ts ∧ t.source = [] ∧
      t.encResult = s.encResult ∧ t.sink = s.sink)

/-- 60_exceptions.md R186 (the spec's decision D21): with no input the block keeps all of DecoderState; no frame is latched
(R180, log 3). -/
def Obligations.IdleKeepsDecoderState : Prop :=
  ∀ s : State, s.params.Legal → s.turns = [] →
    ∃ t, step s = .next t ∧ SameDecoder s t ∧ NoOutput t ∧ t.source = s.source ∧ t.encResult = s.encResult ∧
      t.sink = s.sink ∧ t.turns = []

/-- 60_exceptions.md R170, R181: in a legally built block nothing but the reserved selector stops a step, in any state, and
nothing faults. -/
def Obligations.OnlyTheReservedSelectorStops : Prop :=
  ∀ s : State, s.params.Legal →
    (∃ t, step s = .next t) ∨
      (step s = .refused .reservedSelector ∧ ∃ c ts, s.turns = .command c :: ts ∧ c.sel = 0b11)

/-- 93_implementation_defined.md U8 and 00_scope.md R6: a block built outside the legal ranges is refused (log 1). -/
def Obligations.IllegalParametersAreRefused : Prop :=
  ∀ s : State, ¬ s.params.Legal → step s = .refused .illegalParameters

/-! ### The transition rows -/

/-- 41_decoder.md R121. -/
def Obligations.RxStartOpensAFrame : Prop :=
  ∀ s : State, s.phase = .awaitingStart →
    ∃ t, exec .rxStart s = .next t ∧ exec (.step 0x7E) s = .next t ∧ t.phase = .awaitingLengthHigh ∧ t.dlen = 0 ∧
      t.count = 0 ∧ t.frameOut = none ∧ t.buf = s.buf

/-- 41_decoder.md R122. -/
def Obligations.RxIgnoreChangesNothing : Prop :=
  ∀ (s : State) (b : Byte), s.phase = .awaitingStart → b ≠ 0x7E →
    ∃ t, exec (.rxIgnore b) s = .next t ∧ exec (.step b) s = .next t ∧ SameDecoder s t ∧ t.frameOut = none

/-- 41_decoder.md R123: any byte, 0x7E included, is the high length byte. -/
def Obligations.RxLenHiTakesTheHighByte : Prop :=
  ∀ (s : State) (b : Byte), s.phase = .awaitingLengthHigh →
    ∃ t, exec (.rxLenHi b) s = .next t ∧ exec (.step b) s = .next t ∧ t.dlen = b.zeroExtend 16 <<< 8 ∧
      t.dlen.extractLsb' 8 8 = b ∧ t.dlen.extractLsb' 0 8 = (0 : Byte) ∧ t.phase = .awaitingLengthLow ∧
      t.frameOut = none ∧ t.count = s.count ∧ t.buf = s.buf

/-- 41_decoder.md R124 with its acceptance test, which rests on the spec's decisions D2 and D3; `count` and `buf` do not
change, and with the spec's parameter values the test is 7 ≤ dlen ≤ 127. -/
def Obligations.RxLenLoAcceptsOrDiscards : Prop :=
  ∀ (s : State) (b : Byte), s.phase = .awaitingLengthLow →
    ∃ t, exec (.rxLenLo b) s = .next t ∧ exec (.step b) s = .next t ∧ t.dlen = s.dlen ||| b.zeroExtend 16 ∧
      t.count = s.count ∧ t.buf = s.buf ∧ NoOutput t ∧
      (t.dlen.toNat + 1 > s.params.rxBufCap ∨ t.dlen.toNat < s.params.minLen →
        t.phase = .awaitingStart ∧ t.rxReason = .malformedLength) ∧
      (¬ (t.dlen.toNat + 1 > s.params.rxBufCap ∨ t.dlen.toNat < s.params.minLen) →
        t.phase = .accumulatingBody ∧ t.rxReason = .none) ∧
      (s.params = Config.defaultParams → (t.phase = .accumulatingBody ↔ 7 ≤ t.dlen.toNat ∧ t.dlen.toNat ≤ 127))

/-- 30_encoding.md R61: the two STEPs of the length field assemble `L = len_hi × 256 + len_lo`. -/
def Obligations.LengthIsAssembledBigEndian : Prop :=
  ∀ (s : State) (hi lo : Byte), s.phase = .awaitingLengthHigh →
    ∃ t, feed [hi, lo] s = .next t ∧ t.dlen.toNat = hi.toNat * 256 + lo.toNat

/-- 41_decoder.md R125: the byte is stored at index `count`, every other byte of the buffer reads as before. -/
def Obligations.RxBodyAppendsTheByte : Prop :=
  ∀ (s : State) (b : Byte), s.phase = .accumulatingBody → s.count + 1 < s.dlen.toNat + 1 →
    s.count < s.params.rxBufCap →
    ∃ t, exec (.rxBody b) s = .next t ∧ exec (.step b) s = .next t ∧ t.bufRead s.count = b ∧
      (∀ a, a ≠ s.count → t.bufRead a = s.bufRead a) ∧ t.count = s.count + 1 ∧ t.phase = .accumulatingBody ∧
      t.dlen = s.dlen ∧ t.frameOut = none

/-- 41_decoder.md R126 and R127: the byte is stored at index `count` = dlen, `count` becomes dlen + 1, the phase returns to
AwaitingStart whatever the validation says; a wrong sum is a CHECKSUM_MISMATCH discard, a right one is handed to the arm of
the type byte, run in the state just described. -/
def Obligations.RxCompleteValidatesThenDispatches : Prop :=
  ∀ (s : State) (b : Byte), s.phase = .accumulatingBody → s.count + 1 = s.dlen.toNat + 1 →
    s.count < s.params.rxBufCap →
    ∃ t, exec (.rxComplete b) s = .next t ∧ exec (.step b) s = .next t ∧ t.phase = .awaitingStart ∧
      t.count = s.dlen.toNat + 1 ∧ t.dlen = s.dlen ∧ t.bufRead s.count = b ∧
      (∀ a, a ≠ s.count → t.bufRead a = s.bufRead a) ∧
      ((sum8 (s.bufSlice 0 s.dlen.toNat) + b.toNat) % 256 ≠ 0xFF →
        NoOutput t ∧ t.rxReason = .checksumMismatch) ∧
      ((sum8 (s.bufSlice 0 s.dlen.toNat) + b.toNat) % 256 = 0xFF →
        exec (decodeFrameType (t.bufRead 0)) (completedBy s b) = .next t)

/-- 41_decoder.md R128, the spec's decision D16: where the invariant is violated the phase returns to AwaitingStart, the byte
is not stored, no frame is output and the reason is INVARIANT_RESET. -/
def Obligations.RxForcedResetAbandonsTheFrame : Prop :=
  ∀ (s : State) (b : Byte), s.phase = .accumulatingBody →
    s.count > s.dlen.toNat ∨ s.count ≥ s.params.rxBufCap →
    ∃ t, exec (.rxForcedReset b) s = .next t ∧ exec (.step b) s = .next t ∧ t.phase = .awaitingStart ∧
      t.dlen = s.dlen ∧ t.count = s.count ∧ t.buf = s.buf ∧ NoOutput t ∧ t.rxReason = .invariantReset

/-! ### The frame-type arms -/

/-- 42_dispatcher.md R151: a 0x90 frame too short for its header is discarded; any other emits its payload, routed in the same
operation; DecoderState does not change. -/
def Obligations.ReceivePacketArm : Prop :=
  ∀ s : State, ArmApplies s .ftRxpkt →
    ∃ t, exec .ftRxpkt s = .next t ∧ SameDecoder s t ∧
      (s.dlen.toNat < 12 → NoOutput t ∧ t.rxReason = .malformedShortBody) ∧
      (12 ≤ s.dlen.toNat → t.frameOut = some (.receivedData (s.bufSlice 12 s.dlen.toNat)) ∧
        (s.bufSlice 12 s.dlen.toNat).length = s.dlen.toNat - 12 ∧ t.rxReason = .none)

/-- 42_dispatcher.md R152 (frames longer than 7 are accepted by the spec's decision D4): the status byte is body index 5. -/
def Obligations.TransmitStatusArm : Prop :=
  ∀ s : State, ArmApplies s .ftTxstat →
    ∃ t, exec .ftTxstat s = .next t ∧ SameDecoder s t ∧
      (s.dlen.toNat < 7 → NoOutput t ∧ t.rxReason = .malformedShortBody) ∧
      (7 ≤ s.dlen.toNat → t.frameOut = some (.transmitStatus (decide (s.bufRead 5 = 0x00))) ∧ t.rxReason = .none)

/-- 42_dispatcher.md R153: any other type, the encoder's own 0x10 included, is discarded with UNKNOWN_FRAME_TYPE. -/
def Obligations.UnknownTypesAreDiscarded : Prop :=
  ∀ s : State,
    (ArmApplies s .ftTxreq →
      ∃ t, exec .ftTxreq s = .next t ∧ SameDecoder s t ∧ NoOutput t ∧ t.rxReason = .unknownFrameType) ∧
    (∀ ty, ArmApplies s (.ftUnknown ty) →
      ∃ t, exec (.ftUnknown ty) s = .next t ∧ SameDecoder s t ∧ NoOutput t ∧ t.rxReason = .unknownFrameType)

/-- 42_dispatcher.md R150: in every state that holds a valid frame, DISPATCH runs the arm of the type byte, completes, and
writes no DecoderState. -/
def Obligations.DispatchRunsTheArmOfTheType : Prop :=
  ∀ s : State, HoldsValidFrame s →
    dispatch s = exec (decodeFrameType (s.bufRead 0)) s ∧ ArmApplies s (decodeFrameType (s.bufRead 0)) ∧
      ∃ t, dispatch s = .next t ∧ SameDecoder s t

/-! ### STEP as a whole -/

/-- 41_decoder.md R120, R128 (decision D16 makes STEP total) and 20_memory.md R43: from EVERY state, reachable or not, every
byte is consumed to a next state that leaves the parameters, the ENCODE result and the transport alone and changes at most
the buffer byte at index `count`. -/
def Obligations.StepConsumesEveryByteFromEveryState : Prop :=
  ∀ (s : State) (b : Byte), ∃ t, exec (.step b) s = .next t ∧ t.params = s.params ∧ t.encResult = s.encResult ∧
    t.source = s.source ∧ t.sink = s.sink ∧ t.turns = s.turns ∧
    (∀ a, storedIndex s (.step b) ≠ some a → t.bufRead a = s.bufRead a) ∧
    (t.count = s.count ∨ t.count = s.count + 1 ∨ t.count = 0)

/-- 60_exceptions.md R170 and R177 (labels and precedence are the spec's decisions D15 and D25): when a STEP records each of
the five reasons. -/
def Obligations.ReasonsFollowTheTaxonomy : Prop :=
  ∀ (s : State) (b : Byte) (t : State), exec (.step b) s = .next t →
    (t.rxReason = .malformedLength ↔ s.phase = .awaitingLengthLow ∧
      ((dlenOrLow s.dlen b).toNat + 1 > s.params.rxBufCap ∨ (dlenOrLow s.dlen b).toNat < s.params.minLen)) ∧
    (t.rxReason = .checksumMismatch ↔
      Completing s ∧ (sum8 (s.bufSlice 0 s.dlen.toNat) + b.toNat) % 256 ≠ 0xFF) ∧
    (t.rxReason = .unknownFrameType ↔
      Completing s ∧ (sum8 (s.bufSlice 0 s.dlen.toNat) + b.toNat) % 256 = 0xFF ∧
        t.bufRead 0 ≠ 0x90 ∧ t.bufRead 0 ≠ 0x8B) ∧
    (t.rxReason = .malformedShortBody ↔
      Completing s ∧ (sum8 (s.bufSlice 0 s.dlen.toNat) + b.toNat) % 256 = 0xFF ∧
        ((t.bufRead 0 = 0x90 ∧ s.dlen.toNat < 12) ∨ (t.bufRead 0 = 0x8B ∧ s.dlen.toNat < 7))) ∧
    (t.rxReason = .invariantReset ↔ s.phase = .accumulatingBody ∧
      (s.count > s.dlen.toNat ∨ s.count ≥ s.params.rxBufCap))

/-- 60_exceptions.md R178, R179 (decision D17 concerns the selector only): whatever condition a STEP records, it leaves the
decoder in AwaitingStart with no output; `dlen` keeps its value but for the length byte just taken, the byte is consumed. -/
def Obligations.EveryDiscardReturnsToAwaitingStart : Prop :=
  ∀ (s : State) (b : Byte) (t : State), exec (.step b) s = .next t → t.rxReason ≠ .none →
    t.phase = .awaitingStart ∧ t.parsingInProgress = false ∧ NoOutput t ∧
      (t.rxReason ≠ .malformedLength → t.dlen = s.dlen) ∧
      (t.rxReason = .malformedLength ∨ t.rxReason = .invariantReset → t.count = s.count ∧ t.buf = s.buf)

/-- 42_dispatcher.md R154 (decision D24), R127, R150: whatever instruction runs, a frame stands on `frame_out` after it only
where it is the STEP, or its row RX_COMPLETE, that completes a frame whose checksum is valid and whose type is recognised, or the
arm of such a completed frame; and then it is the frame those bytes say. -/
def Obligations.FrameOnlyAfterAValidChecksum : Prop :=
  ∀ (i : Instr) (s t : State) (f : ParsedFrame), exec i s = .next t → t.frameOut = some f →
    (∃ b, (i = .step b ∨ i = .rxComplete b) ∧ Completing s ∧
      (sum8 (s.bufSlice 0 s.dlen.toNat) + b.toNat) % 256 = 0xFF ∧ t.phase = .awaitingStart ∧
      ((t.bufRead 0 = 0x90 ∧ 12 ≤ s.dlen.toNat ∧ f = .receivedData (s.bufSlice 12 s.dlen.toNat)) ∨
        (t.bufRead 0 = 0x8B ∧ 7 ≤ s.dlen.toNat ∧ f = .transmitStatus (decide (s.bufRead 5 = 0x00))))) ∨
    (i = .ftRxpkt ∧ ArmApplies s i ∧ 12 ≤ s.dlen.toNat ∧ f = .receivedData (s.bufSlice 12 s.dlen.toNat)) ∨
    (i = .ftTxstat ∧ ArmApplies s i ∧ 7 ≤ s.dlen.toNat ∧ f = .transmitStatus (decide (s.bufRead 5 = 0x00)))

/-- 42_dispatcher.md R155 (decision D28): whatever runs, the frame it outputs is written to exactly one handler channel in the
same operation, and with no frame neither channel is written (for operations other than STEP this rests also on log 4). -/
def Obligations.EachFrameGoesToOneHandlerChannel : Prop :=
  ∀ (i : Instr) (s t : State), exec i s = .next t →
    (t.frameOut = none → t.rxData = none ∧ t.txStatus = none) ∧
    (∀ p, t.frameOut = some (.receivedData p) → t.rxData = some p ∧ t.txStatus = none) ∧
    (∀ ok, t.frameOut = some (.transmitStatus ok) → t.rxData = none ∧ t.txStatus = some ok)

/-- 30_encoding.md R70: whatever instruction outputs it, a delivered payload has at most P_RX_BUF_CAP − 13 bytes. -/
def Obligations.DeliveredPayloadIsBounded : Prop :=
  ∀ (i : Instr) (s t : State) (p : List Byte), exec i s = .next t →
    t.frameOut = some (.receivedData p) → p.length + 13 ≤ s.params.rxBufCap

/-- 41_decoder.md R130 (decision D22), R121 to R126, and 10_state.md R25 (decision D7): the phase graph, and the flag that goes
with it. Only the start marker in AwaitingStart opens a frame; in every other phase 0x7E moves the phase as any other byte does;
`parsing_in_progress` is set after the STEP exactly when the phase is not AwaitingStart. -/
def Obligations.PhaseGraphOfStep : Prop :=
  ∀ (s : State) (b : Byte) (t : State), exec (.step b) s = .next t →
    (t.phase = .awaitingLengthHigh ↔ s.phase = .awaitingStart ∧ b = 0x7E) ∧
    (t.phase = .awaitingLengthLow ↔ s.phase = .awaitingLengthHigh) ∧
    (t.phase = .accumulatingBody ↔
      (s.phase = .awaitingLengthLow ∧ (dlenOrLow s.dlen b).toNat + 1 ≤ s.params.rxBufCap ∧
        s.params.minLen ≤ (dlenOrLow s.dlen b).toNat) ∨
      (s.phase = .accumulatingBody ∧ s.count < s.dlen.toNat ∧ s.count < s.params.rxBufCap)) ∧
    (t.parsingInProgress = true ↔ t.phase ≠ .awaitingStart)

/-! ### RESET -/

/-- 70_reset_and_hazards.md R190 (the reset state is the spec's decision D10): from every state. That RESET does not write `buf`
is R190's own words; that its bytes then still read as before is the model's choice (log 7), since the spec leaves them
unspecified. R190 clears `frame_out`; that rx_data, tx_status and rx_reason are clear too is the model's reading (log 4). An
ENCODE result already produced stays (R190, log 5). -/
def Obligations.ResetReturnsToTheInitialState : Prop :=
  ∀ s : State, ∃ t, exec .reset s = .next t ∧ t.phase = .awaitingStart ∧ t.dlen = 0 ∧ t.count = 0 ∧
    NoOutput t ∧ t.rxReason = .none ∧ t.parsingInProgress = false ∧ t.buf = s.buf ∧ t.encResult = s.encResult ∧
    t.sink = s.sink

/-- 10_state.md R33 and 70_reset_and_hazards.md R191 (decision D10): the state after power-on, with the parameter values of
00_scope.md R6. Nothing of `buf` is written. -/
def Obligations.PowerOnState : Prop :=
  State.reset.phase = .awaitingStart ∧ State.reset.phase.encoding = 0b00 ∧ State.reset.dlen = 0x0000 ∧
    State.reset.count = 0 ∧ (∀ i, State.reset.buf.read? i = none) ∧ State.reset.parsingInProgress = false ∧
    State.reset.frameOut = none ∧ State.reset.params.txMaxFrame = 128 ∧ State.reset.params.rxBufCap = 128 ∧
    State.reset.params.minLen = 7

/-! ### ENCODE -/

/-- 40_encoder.md R100: the frame, byte for byte, when it fits; PayloadTooLarge when it does not; no DecoderState written. -/
def Obligations.EncodeBuildsTheTransmitRequestFrame : Prop :=
  ∀ (s : State) (addr : Addr64) (payload : List Byte),
    ∃ t, exec (.encode addr payload) s = .next t ∧ SameDecoder s t ∧
      (payload.length + 18 > s.params.txMaxFrame → t.encResult = some (.err .payloadTooLarge)) ∧
      (payload.length + 18 ≤ s.params.txMaxFrame →
        ∃ body : List Byte,
          body = [0x10, 0x01, addr.extractLsb' 56 8, addr.extractLsb' 48 8, addr.extractLsb' 40 8,
            addr.extractLsb' 32 8, addr.extractLsb' 24 8, addr.extractLsb' 16 8, addr.extractLsb' 8 8,
            addr.extractLsb' 0 8, 0xFF, 0xFE, 0x00, 0x00] ++ payload ∧
          t.encResult = some (.ok ([0x7E, BitVec.ofNat 8 (body.length / 256), BitVec.ofNat 8 body.length] ++ body
            ++ [BitVec.ofNat 8 (0xFF - sum8 body)])))

/-- 40_encoder.md R101, R105, R106 (decisions D1 and D29): PayloadTooLarge iff n + 18 exceeds the bound; an Ok frame is handed
to the transport in one write, an error hands nothing; with the bound 128 a payload of 110 bytes fits and one of 111 fails. That no
decoder output stands after ENCODE is the model's reading (log 4). -/
def Obligations.EncodeSizeCheckAndHandOff : Prop :=
  ∀ (s : State) (addr : Addr64) (payload : List Byte) (t : State), exec (.encode addr payload) s = .next t →
    (t.encResult = some (.err .payloadTooLarge) ↔ payload.length + 18 > s.params.txMaxFrame) ∧
    (∀ f, t.encResult = some (.ok f) → t.sink = s.sink ++ [f] ∧ f.length = payload.length + 18) ∧
    (t.encResult = some (.err .payloadTooLarge) → t.sink = s.sink) ∧
    (s.params = Config.defaultParams →
      (t.encResult = some (.err .payloadTooLarge) ↔ 111 ≤ payload.length)) ∧
    NoOutput t

/-- 40_encoder.md R104: in every Ok result of a legally built block the length field, the start marker and the checksum are
consistent with the frame. -/
def Obligations.EncodedFrameIsConsistent : Prop :=
  ∀ (s : State) (addr : Addr64) (payload : List Byte) (t : State) (f : List Byte), s.params.Legal →
    exec (.encode addr payload) s = .next t → t.encResult = some (.ok f) →
    ∃ hi lo body c, f = 0x7E :: hi :: lo :: (body ++ [c]) ∧ hi.toNat * 256 + lo.toNat = f.length - 4 ∧
      (sum8 body + c.toNat) % 256 = 0xFF

/-- 20_memory.md R52: ENCODE writes no DecoderState and its result depends on none; STEP reads no ENCODE argument or result; so
the two can be interleaved in either order without changing the result of either. After ENCODE then STEP the decoder's outputs
are those of STEP alone. What stands on them after STEP then ENCODE is no clause here: the model clears them at the start of
every operation (log 4), which EncodeSizeCheckAndHandOff says of ENCODE in any state. -/
def Obligations.EncodeAndStepDoNotInterfere : Prop :=
  ∀ (s : State) (addr : Addr64) (payload : List Byte) (b : Byte),
    ∃ e st es se, exec (.encode addr payload) s = .next e ∧ exec (.step b) s = .next st ∧
      exec (.step b) e = .next es ∧ exec (.encode addr payload) st = .next se ∧
      SameDecoder s e ∧ SameDecoder st es ∧ SameDecoder st se ∧
      es.frameOut = st.frameOut ∧ es.rxData = st.rxData ∧ es.txStatus = st.txStatus ∧ es.rxReason = st.rxReason ∧
      es.encResult = e.encResult ∧ es.sink = e.sink ∧ se.encResult = e.encResult ∧ se.sink = e.sink ∧
      (∀ u : State, u.params = s.params → ∃ v, exec (.encode addr payload) u = .next v ∧ v.encResult = e.encResult) ∧
      (∀ r k, exec (.step b) { s with encResult := r, sink := k } = .next { st with encResult := r, sink := k })

/-! ### Frames of all instructions -/

/-- 10_state.md R27, R28 (decision D8) and 20_memory.md R42: what no instruction changes, in every case that gives a next
state. No instruction changes the parameters or what is still to come from outside; only ENCODE changes the ENCODE result or
the sink (that the result stays until then is the model's reading, log 5); ENCODE and the frame-type rows leave DecoderState
alone, and so does a byte other than the start marker in AwaitingStart, as STEP or as RX_IGNORE; `dlen` changes only where a
start marker, a length byte or RESET writes it. -/
def Obligations.WhatEachInstructionLeavesAlone : Prop :=
  ∀ (i : Instr) (s t : State), exec i s = .next t →
    t.params = s.params ∧ t.source = s.source ∧ t.turns = s.turns ∧
    ((∀ addr payload, i ≠ .encode addr payload) → t.encResult = s.encResult ∧ t.sink = s.sink) ∧
    ((∃ addr payload, i = .encode addr payload) ∨ ArmApplies s i → SameDecoder s t) ∧
    (s.phase = .accumulatingBody → i ≠ .reset → t.dlen = s.dlen) ∧
    (∀ b, i = .rxIgnore b → SameDecoder s t) ∧
    (∀ b, i = .step b → s.phase = .awaitingStart → b ≠ 0x7E → SameDecoder s t) ∧
    (t.dlen = s.dlen ∨ i = .reset ∨ i = .rxStart ∨ (∃ b, i = .rxLenHi b ∨ i = .rxLenLo b) ∨
      ∃ b, i = .step b ∧ ((s.phase = .awaitingStart ∧ b = 0x7E) ∨ s.phase = .awaitingLengthHigh ∨
        s.phase = .awaitingLengthLow)) ∧
    (∀ b, i = .rxLenHi b ∨ i = .rxLenLo b ∨ i = .rxForcedReset b → t.count = s.count) ∧
    ((∃ b, i = .rxBody b ∨ i = .rxComplete b ∨ i = .rxForcedReset b) → t.dlen = s.dlen)

/-- 20_memory.md R42 and R43: every byte of the buffer reads as before, but the one byte at index `count` where the
instruction stores one. -/
def Obligations.OnlyTheByteAtCountIsWritten : Prop :=
  ∀ (i : Instr) (s t : State), exec i s = .next t → ∀ a, storedIndex s i ≠ some a → t.bufRead a = s.bufRead a

/-! ### Invariants -/

/-- 10_state.md R26: the invariant holds at reset, and of every block built with legal parameters when it is powered on. -/
def Obligations.PowerOnMeetsTheInvariant : Prop :=
  State.reset.Inv ∧ ∀ (p : Config.Params) (source : List Byte) (turns : List Turn), p.Legal →
    (State.powerOn p source turns).Inv

/-- 10_state.md R26: every step keeps the invariant, from every state that meets it. -/
def Obligations.EveryStepKeepsTheInvariant : Prop :=
  ∀ s t : State, s.Inv → step s = .next t → t.Inv

/-- 10_state.md R26 and 41_decoder.md R128: after any number of operations, on any stream, under any schedule, from power-on
with any legal parameters, the rule's own inequalities hold and no forced reset has just happened. -/
def Obligations.ForcedResetIsUnreachable : Prop :=
  ∀ (p : Config.Params) (source : List Byte) (turns : List Turn) (n : Nat) (t : State), p.Legal →
    core.run n (State.powerOn p source turns) = .next t →
    t.count ≤ t.dlen.toNat + 1 ∧ t.count ≤ p.rxBufCap ∧
      (t.phase = .accumulatingBody →
        p.minLen ≤ t.dlen.toNat ∧ t.dlen.toNat + 1 ≤ p.rxBufCap ∧ t.count ≤ t.dlen.toNat) ∧
      t.rxReason ≠ .invariantReset

/-- 10_state.md R32: stale buffer bytes never reach an output. Two states that differ only in them stop alike or go on to
states that again differ only in stale bytes (so every output port, register and the transport are equal). -/
def Obligations.StaleBytesNeverReachAnOutput : Prop :=
  ∀ s t : State, DifferOnlyInStaleBytes s t →
    (∃ r, step s = .refused r ∧ step t = .refused r) ∨
      ∃ s' t', step s = .next s' ∧ step t = .next t' ∧ DifferOnlyInStaleBytes s' t'

/-! ### Streams -/

/-- 41_decoder.md R122, 20_memory.md R42: in AwaitingStart, bytes without a start marker leave DecoderState as it is and yield
no frame, however many. -/
def Obligations.NoiseIsIgnored : Prop :=
  ∀ (bs : List Byte) (s : State), s.phase = .awaitingStart → (∀ b ∈ bs, b ≠ 0x7E) →
    ∃ t, feed bs s = .next t ∧ SameDecoder s t ∧ frameTrace bs s = List.replicate bs.length none

/-- 41_decoder.md R125, R130, R131: once a length is accepted, the following bytes, whatever their values, are stored in order
and counted, and none of them yields a frame, until the declared length is reached. -/
def Obligations.BodyBytesAreStoredAndCounted : Prop :=
  ∀ (bs : List Byte) (s : State), s.phase = .accumulatingBody → s.count + bs.length ≤ s.dlen.toNat →
    s.dlen.toNat < s.params.rxBufCap →
    ∃ t, feed bs s = .next t ∧ t.phase = .accumulatingBody ∧ t.dlen = s.dlen ∧ t.count = s.count + bs.length ∧
      t.bufSlice s.count (s.count + bs.length) = bs ∧
      (∀ a, a < s.count ∨ s.count + bs.length ≤ a → t.bufRead a = s.bufRead a) ∧
      frameTrace bs s = List.replicate bs.length none

/-- 41_decoder.md R129, R132: from every state of the invariant that is in the body of a frame, exactly the missing bytes,
whatever their values, bring the decoder back to AwaitingStart, and only the last of them may yield a frame. -/
def Obligations.DeclaredLengthAlwaysEndsTheFrame : Prop :=
  ∀ (bs : List Byte) (s : State), s.Inv → s.phase = .accumulatingBody → s.count + bs.length = s.dlen.toNat + 1 →
    ∃ t, feed bs s = .next t ∧ t.phase = .awaitingStart ∧ t.dlen = s.dlen ∧ t.count = s.dlen.toNat + 1 ∧
      frameTrace bs s = List.replicate (bs.length - 1) none ++ [t.frameOut]

/-- 41_decoder.md R129, 42_dispatcher.md R151 to R153, 30_encoding.md R60 to R65 (95_test_vectors.md V-S5): a whole frame of any
acceptable length, with any body, fed from AwaitingStart, yields exactly what its body says, at its last byte and nowhere
else, and takes exactly L + 4 STEPs. -/
def Obligations.WholeFrameIsReceivedAtItsLastByte : Prop :=
  ∀ (s : State) (body : List Byte), s.params.Legal → s.phase = .awaitingStart →
    s.params.minLen ≤ body.length → body.length + 1 ≤ s.params.rxBufCap →
    ∃ t, feed (frameBytes body) s = .next t ∧ t.phase = .awaitingStart ∧ t.dlen.toNat = body.length ∧
      t.count = body.length + 1 ∧ t.bufSlice 0 body.length = body ∧
      frameTrace (frameBytes body) s = List.replicate (body.length + 3) none ++ [parsedBody body]

/-- 42_dispatcher.md R153 (95_test_vectors.md V-D9): the block's own output, fed back to its input, is consumed whole and
discarded as of unknown type, for every address and every payload that the receive buffer can hold. -/
def Obligations.LoopbackIsDiscarded : Prop :=
  ∀ (s e t : State) (addr : Addr64) (payload f : List Byte), s.params.Legal → s.phase = .awaitingStart →
    exec (.encode addr payload) s = .next e → e.encResult = some (.ok f) → payload.length + 15 ≤ s.params.rxBufCap →
    feed f e = .next t →
    t.phase = .awaitingStart ∧ t.rxReason = .unknownFrameType ∧
      frameTrace f e = List.replicate (payload.length + 18) none

/-- 41_decoder.md R127 (95_test_vectors.md V-S8, 90_conflicts.md C7): any single-bit flip in the body or the checksum of a
valid frame is discarded as CHECKSUM_MISMATCH at the last byte, and no byte yields a frame. -/
def Obligations.SingleBitFlipIsDiscarded : Prop :=
  ∀ (s : State) (body flipped : List Byte) (j k : Nat) (x : Byte), s.params.Legal → s.phase = .awaitingStart →
    s.params.minLen ≤ body.length → body.length + 1 ≤ s.params.rxBufCap → k < 8 →
    (body ++ [BitVec.ofNat 8 (0xFF - sum8 body)])[j]? = some x →
    flipped = (body ++ [BitVec.ofNat 8 (0xFF - sum8 body)]).set j (x ^^^ ((1 : Byte) <<< k)) →
    ∃ t, feed ([0x7E, BitVec.ofNat 8 (body.length / 256), BitVec.ofNat 8 body.length] ++ flipped) s = .next t ∧
      t.phase = .awaitingStart ∧ t.rxReason = .checksumMismatch ∧
      frameTrace ([0x7E, BitVec.ofNat 8 (body.length / 256), BitVec.ofNat 8 body.length] ++ flipped) s =
        List.replicate (body.length + 4) none

/-- 70_reset_and_hazards.md R190, R195: after a RESET, whatever partial frame the decoder held, a valid frame is received as
from power-on. -/
def Obligations.ResetRescuesTheNextFrame : Prop :=
  ∀ (s : State) (body : List Byte), s.params.Legal → s.params.minLen ≤ body.length →
    body.length + 1 ≤ s.params.rxBufCap →
    ∃ r, exec .reset s = .next r ∧
      frameTrace (frameBytes body) r = List.replicate (body.length + 3) none ++ [parsedBody body]

/-- 70_reset_and_hazards.md R195 (90_conflicts.md C2, 95_test_vectors.md V-S6, V-D13): a cut-short frame is completed by
exactly its missing number of bytes, of any values; after them and any bytes without a start marker, the next valid frame is
received whole. -/
def Obligations.GapRescuesTheNextFrame : Prop :=
  ∀ (s : State) (gap noise body : List Byte), s.Inv → s.phase = .accumulatingBody →
    s.count + gap.length = s.dlen.toNat + 1 → (∀ b ∈ noise, b ≠ 0x7E) → s.params.minLen ≤ body.length →
    body.length + 1 ≤ s.params.rxBufCap →
    ∃ t, feed (gap ++ noise) s = .next t ∧
      frameTrace (frameBytes body) t = List.replicate (body.length + 3) none ++ [parsedBody body]

/-- 42_dispatcher.md R156 (decision D28): polling once for each available byte presents every byte exactly once, in order: the
machine reaches the state STEP* over those bytes reaches, with the rest of the stream and of the schedule untouched. -/
def Obligations.LoopFeedsEveryByteInOrder : Prop :=
  ∀ (bs rest : List Byte) (ts : List Turn) (s : State), s.params.Legal → s.source = bs ++ rest →
    s.turns = List.replicate bs.length .poll ++ ts →
    ∃ t, feed bs { s with source := rest, turns := ts } = .next t ∧ core.run bs.length s = .next t

/-- 30_encoding.md R72: the validity condition has exactly one solution, and it is the checksum the encoder writes. -/
def Obligations.ChecksumByteIsUnique : Prop :=
  ∀ (body : List Byte) (c : Byte), ((sum8 body + c.toNat) % 256 = 0xFF ↔ c.toNat = 0xFF - sum8 body) ∧
    (checksumValid body c ↔ c = checksum body) ∧ (checksum body).toNat = 0xFF - sum8 body

end
end

