-- ==== Sys2Proof/Laws/Decode.lean ====
section
/-! SUPPORT. Small facts about the encodings: the phase numbers, and the fields of a transition word. -/

namespace Sys2Proof

@[simp] theorem Phase.ofBits_encoding (p : Phase) : Phase.ofBits p.encoding = p := by cases p <;> rfl

theorem Phase.encoding_ofBits (w : BitVec 2) : (Phase.ofBits w).encoding = w := by
  revert w; decide

theorem transitionWord_getLsbD (p : Phase) (b : Byte) (i : Nat) :
    (transitionWord p b).getLsbD i = if i < 8 then b.getLsbD i else p.encoding.getLsbD (i - 8) :=
  (BitVec.getLsbD_append (x := p.encoding) (y := b)).trans (by cases decide (i < 8) <;> simp)

@[simp] theorem transitionWord_byte (p : Phase) (b : Byte) : (transitionWord p b).extractLsb' 0 8 = b := by
  ext i hi
  simp [transitionWord_getLsbD, hi]

@[simp] theorem transitionWord_phase (p : Phase) (b : Byte) :
    (transitionWord p b).extractLsb' 8 2 = p.encoding := by
  ext i hi
  simp [transitionWord_getLsbD, BitVec.getLsbD_eq_getElem hi]

/-- A 10-bit word is the transition word of its two fields. -/
theorem transitionWord_fields (w : BitVec 10) :
    transitionWord (Phase.ofBits (w.extractLsb' 8 2)) (w.extractLsb' 0 8) = w := by
  ext i hi
  rw [← BitVec.getLsbD_eq_getElem, transitionWord_getLsbD, Phase.encoding_ofBits]
  split
  · rw [BitVec.getLsbD_extractLsb']; simp [*]
  · rw [BitVec.getLsbD_extractLsb', show 8 + (i - 8) = i by omega]
    simp [show i - 8 < 2 by omega, BitVec.getLsbD_eq_getElem hi]

/-- The transition row of a phase and a byte. -/
theorem decodeTransition_word (c : RxContext) (p : Phase) (b : Byte) :
    decodeTransition c (transitionWord p b) =
      match p with
      | .awaitingStart => if b = Config.START then .rxStart else .rxIgnore b
      | .awaitingLengthHigh => .rxLenHi b
      | .awaitingLengthLow => .rxLenLo b
      | .accumulatingBody =>
        if c.forcedRow then .rxForcedReset b else if c.bodyRow then .rxBody b else .rxComplete b := by
  cases p <;> simp [decodeTransition]

/-- The three AccumulatingBody rows exclude each other and cover every case (30_encoding.md R76). -/
theorem RxContext.rows_partition (c : RxContext) :
    (c.forcedRow = true ∧ c.bodyRow = false ∧ c.completeRow = false) ∨
    (c.forcedRow = false ∧ c.bodyRow = true ∧ c.completeRow = false) ∨
    (c.forcedRow = false ∧ c.bodyRow = false ∧ c.completeRow = true) := by
  simp only [RxContext.forcedRow, RxContext.bodyRow, RxContext.completeRow, decide_eq_true_eq, decide_eq_false_iff_not]
  omega

end Sys2Proof
end

