-- ==== Sys2Proof/Laws/State.lean ====
section
/-! SUPPORT. One lemma per field per update of the state, true by unfolding, so that no later proof unfolds a record update. -/

namespace Sys2Proof.Machine

open Sys2Proof

@[simp] theorem State.clearOutputs_params (s : State) : (s.clearOutputs).params = s.params := rfl
@[simp] theorem State.clearOutputs_phase (s : State) : (s.clearOutputs).phase = s.phase := rfl
@[simp] theorem State.clearOutputs_dlen (s : State) : (s.clearOutputs).dlen = s.dlen := rfl
@[simp] theorem State.clearOutputs_count (s : State) : (s.clearOutputs).count = s.count := rfl
@[simp] theorem State.clearOutputs_buf (s : State) : (s.clearOutputs).buf = s.buf := rfl
@[simp] theorem State.clearOutputs_frameOut (s : State) : (s.clearOutputs).frameOut = none := rfl
@[simp] theorem State.clearOutputs_rxData (s : State) : (s.clearOutputs).rxData = none := rfl
@[simp] theorem State.clearOutputs_txStatus (s : State) : (s.clearOutputs).txStatus = none := rfl
@[simp] theorem State.clearOutputs_encResult (s : State) : (s.clearOutputs).encResult = s.encResult := rfl
@[simp] theorem State.clearOutputs_rxReason (s : State) : (s.clearOutputs).rxReason = .none := rfl
@[simp] theorem State.clearOutputs_source (s : State) : (s.clearOutputs).source = s.source := rfl
@[simp] theorem State.clearOutputs_sink (s : State) : (s.clearOutputs).sink = s.sink := rfl
@[simp] theorem State.clearOutputs_turns (s : State) : (s.clearOutputs).turns = s.turns := rfl

@[simp] theorem State.setPhase_params (s : State) (p : Phase) : (s.setPhase p).params = s.params := rfl
@[simp] theorem State.setPhase_phase (s : State) (p : Phase) : (s.setPhase p).phase = p := rfl
@[simp] theorem State.setPhase_dlen (s : State) (p : Phase) : (s.setPhase p).dlen = s.dlen := rfl
@[simp] theorem State.setPhase_count (s : State) (p : Phase) : (s.setPhase p).count = s.count := rfl
@[simp] theorem State.setPhase_buf (s : State) (p : Phase) : (s.setPhase p).buf = s.buf := rfl
@[simp] theorem State.setPhase_frameOut (s : State) (p : Phase) : (s.setPhase p).frameOut = s.frameOut := rfl
@[simp] theorem State.setPhase_rxData (s : State) (p : Phase) : (s.setPhase p).rxData = s.rxData := rfl
@[simp] theorem State.setPhase_txStatus (s : State) (p : Phase) : (s.setPhase p).txStatus = s.txStatus := rfl
@[simp] theorem State.setPhase_encResult (s : State) (p : Phase) : (s.setPhase p).encResult = s.encResult := rfl
@[simp] theorem State.setPhase_rxReason (s : State) (p : Phase) : (s.setPhase p).rxReason = s.rxReason := rfl
@[simp] theorem State.setPhase_source (s : State) (p : Phase) : (s.setPhase p).source = s.source := rfl
@[simp] theorem State.setPhase_sink (s : State) (p : Phase) : (s.setPhase p).sink = s.sink := rfl
@[simp] theorem State.setPhase_turns (s : State) (p : Phase) : (s.setPhase p).turns = s.turns := rfl

@[simp] theorem State.setDlen_params (s : State) (d : Len16) : (s.setDlen d).params = s.params := rfl
@[simp] theorem State.setDlen_phase (s : State) (d : Len16) : (s.setDlen d).phase = s.phase := rfl
@[simp] theorem State.setDlen_dlen (s : State) (d : Len16) : (s.setDlen d).dlen = d := rfl
@[simp] theorem State.setDlen_count (s : State) (d : Len16) : (s.setDlen d).count = s.count := rfl
@[simp] theorem State.setDlen_buf (s : State) (d : Len16) : (s.setDlen d).buf = s.buf := rfl
@[simp] theorem State.setDlen_frameOut (s : State) (d : Len16) : (s.setDlen d).frameOut = s.frameOut := rfl
@[simp] theorem State.setDlen_rxData (s : State) (d : Len16) : (s.setDlen d).rxData = s.rxData := rfl
@[simp] theorem State.setDlen_txStatus (s : State) (d : Len16) : (s.setDlen d).txStatus = s.txStatus := rfl
@[simp] theorem State.setDlen_encResult (s : State) (d : Len16) : (s.setDlen d).encResult = s.encResult := rfl
@[simp] theorem State.setDlen_rxReason (s : State) (d : Len16) : (s.setDlen d).rxReason = s.rxReason := rfl
@[simp] theorem State.setDlen_source (s : State) (d : Len16) : (s.setDlen d).source = s.source := rfl
@[simp] theorem State.setDlen_sink (s : State) (d : Len16) : (s.setDlen d).sink = s.sink := rfl
@[simp] theorem State.setDlen_turns (s : State) (d : Len16) : (s.setDlen d).turns = s.turns := rfl

@[simp] theorem State.setCount_params (s : State) (n : Nat) : (s.setCount n).params = s.params := rfl
@[simp] theorem State.setCount_phase (s : State) (n : Nat) : (s.setCount n).phase = s.phase := rfl
@[simp] theorem State.setCount_dlen (s : State) (n : Nat) : (s.setCount n).dlen = s.dlen := rfl
@[simp] theorem State.setCount_count (s : State) (n : Nat) : (s.setCount n).count = n := rfl
@[simp] theorem State.setCount_buf (s : State) (n : Nat) : (s.setCount n).buf = s.buf := rfl
@[simp] theorem State.setCount_frameOut (s : State) (n : Nat) : (s.setCount n).frameOut = s.frameOut := rfl
@[simp] theorem State.setCount_rxData (s : State) (n : Nat) : (s.setCount n).rxData = s.rxData := rfl
@[simp] theorem State.setCount_txStatus (s : State) (n : Nat) : (s.setCount n).txStatus = s.txStatus := rfl
@[simp] theorem State.setCount_encResult (s : State) (n : Nat) : (s.setCount n).encResult = s.encResult := rfl
@[simp] theorem State.setCount_rxReason (s : State) (n : Nat) : (s.setCount n).rxReason = s.rxReason := rfl
@[simp] theorem State.setCount_source (s : State) (n : Nat) : (s.setCount n).source = s.source := rfl
@[simp] theorem State.setCount_sink (s : State) (n : Nat) : (s.setCount n).sink = s.sink := rfl
@[simp] theorem State.setCount_turns (s : State) (n : Nat) : (s.setCount n).turns = s.turns := rfl

@[simp] theorem State.appendByte_params (s : State) (b : Byte) : (s.appendByte b).params = s.params := rfl
@[simp] theorem State.appendByte_phase (s : State) (b : Byte) : (s.appendByte b).phase = s.phase := rfl
@[simp] theorem State.appendByte_dlen (s : State) (b : Byte) : (s.appendByte b).dlen = s.dlen := rfl
@[simp] theorem State.appendByte_count (s : State) (b : Byte) : (s.appendByte b).count = s.count + 1 := rfl
@[simp] theorem State.appendByte_buf (s : State) (b : Byte) : (s.appendByte b).buf = s.buf.write s.count b := rfl
@[simp] theorem State.appendByte_frameOut (s : State) (b : Byte) : (s.appendByte b).frameOut = s.frameOut := rfl
@[simp] theorem State.appendByte_rxData (s : State) (b : Byte) : (s.appendByte b).rxData = s.rxData := rfl
@[simp] theorem State.appendByte_txStatus (s : State) (b : Byte) : (s.appendByte b).txStatus = s.txStatus := rfl
@[simp] theorem State.appendByte_encResult (s : State) (b : Byte) : (s.appendByte b).encResult = s.encResult := rfl
@[simp] theorem State.appendByte_rxReason (s : State) (b : Byte) : (s.appendByte b).rxReason = s.rxReason := rfl
@[simp] theorem State.appendByte_source (s : State) (b : Byte) : (s.appendByte b).source = s.source := rfl
@[simp] theorem State.appendByte_sink (s : State) (b : Byte) : (s.appendByte b).sink = s.sink := rfl
@[simp] theorem State.appendByte_turns (s : State) (b : Byte) : (s.appendByte b).turns = s.turns := rfl

@[simp] theorem State.discard_params (s : State) (r : Reason) : (s.discard r).params = s.params := rfl
@[simp] theorem State.discard_phase (s : State) (r : Reason) : (s.discard r).phase = s.phase := rfl
@[simp] theorem State.discard_dlen (s : State) (r : Reason) : (s.discard r).dlen = s.dlen := rfl
@[simp] theorem State.discard_count (s : State) (r : Reason) : (s.discard r).count = s.count := rfl
@[simp] theorem State.discard_buf (s : State) (r : Reason) : (s.discard r).buf = s.buf := rfl
@[simp] theorem State.discard_frameOut (s : State) (r : Reason) : (s.discard r).frameOut = none := rfl
@[simp] theorem State.discard_rxData (s : State) (r : Reason) : (s.discard r).rxData = none := rfl
@[simp] theorem State.discard_txStatus (s : State) (r : Reason) : (s.discard r).txStatus = none := rfl
@[simp] theorem State.discard_encResult (s : State) (r : Reason) : (s.discard r).encResult = s.encResult := rfl
@[simp] theorem State.discard_rxReason (s : State) (r : Reason) : (s.discard r).rxReason = r := rfl
@[simp] theorem State.discard_source (s : State) (r : Reason) : (s.discard r).source = s.source := rfl
@[simp] theorem State.discard_sink (s : State) (r : Reason) : (s.discard r).sink = s.sink := rfl
@[simp] theorem State.discard_turns (s : State) (r : Reason) : (s.discard r).turns = s.turns := rfl

@[simp] theorem State.enterDiscard_params (s : State) (r : Reason) : (s.enterDiscard r).params = s.params := rfl
@[simp] theorem State.enterDiscard_phase (s : State) (r : Reason) : (s.enterDiscard r).phase = .awaitingStart := rfl
@[simp] theorem State.enterDiscard_dlen (s : State) (r : Reason) : (s.enterDiscard r).dlen = s.dlen := rfl
@[simp] theorem State.enterDiscard_count (s : State) (r : Reason) : (s.enterDiscard r).count = s.count := rfl
@[simp] theorem State.enterDiscard_buf (s : State) (r : Reason) : (s.enterDiscard r).buf = s.buf := rfl
@[simp] theorem State.enterDiscard_frameOut (s : State) (r : Reason) : (s.enterDiscard r).frameOut = none := rfl
@[simp] theorem State.enterDiscard_rxData (s : State) (r : Reason) : (s.enterDiscard r).rxData = none := rfl
@[simp] theorem State.enterDiscard_txStatus (s : State) (r : Reason) : (s.enterDiscard r).txStatus = none := rfl
@[simp] theorem State.enterDiscard_encResult (s : State) (r : Reason) : (s.enterDiscard r).encResult = s.encResult := rfl
@[simp] theorem State.enterDiscard_rxReason (s : State) (r : Reason) : (s.enterDiscard r).rxReason = r := rfl
@[simp] theorem State.enterDiscard_source (s : State) (r : Reason) : (s.enterDiscard r).source = s.source := rfl
@[simp] theorem State.enterDiscard_sink (s : State) (r : Reason) : (s.enterDiscard r).sink = s.sink := rfl
@[simp] theorem State.enterDiscard_turns (s : State) (r : Reason) : (s.enterDiscard r).turns = s.turns := rfl

@[simp] theorem State.setEncResult_params (s : State) (e : EncResult) : (s.setEncResult e).params = s.params := rfl
@[simp] theorem State.setEncResult_phase (s : State) (e : EncResult) : (s.setEncResult e).phase = s.phase := rfl
@[simp] theorem State.setEncResult_dlen (s : State) (e : EncResult) : (s.setEncResult e).dlen = s.dlen := rfl
@[simp] theorem State.setEncResult_count (s : State) (e : EncResult) : (s.setEncResult e).count = s.count := rfl
@[simp] theorem State.setEncResult_buf (s : State) (e : EncResult) : (s.setEncResult e).buf = s.buf := rfl
@[simp] theorem State.setEncResult_frameOut (s : State) (e : EncResult) : (s.setEncResult e).frameOut = s.frameOut := rfl
@[simp] theorem State.setEncResult_rxData (s : State) (e : EncResult) : (s.setEncResult e).rxData = s.rxData := rfl
@[simp] theorem State.setEncResult_txStatus (s : State) (e : EncResult) : (s.setEncResult e).txStatus = s.txStatus := rfl
@[simp] theorem State.setEncResult_encResult (s : State) (e : EncResult) : (s.setEncResult e).encResult = some e := rfl
@[simp] theorem State.setEncResult_rxReason (s : State) (e : EncResult) : (s.setEncResult e).rxReason = s.rxReason := rfl
@[simp] theorem State.setEncResult_source (s : State) (e : EncResult) : (s.setEncResult e).source = s.source := rfl
@[simp] theorem State.setEncResult_sink (s : State) (e : EncResult) : (s.setEncResult e).sink = s.sink := rfl
@[simp] theorem State.setEncResult_turns (s : State) (e : EncResult) : (s.setEncResult e).turns = s.turns := rfl

@[simp] theorem State.transportWrite_params (s : State) (f : List Byte) : (s.transportWrite f).params = s.params := rfl
@[simp] theorem State.transportWrite_phase (s : State) (f : List Byte) : (s.transportWrite f).phase = s.phase := rfl
@[simp] theorem State.transportWrite_dlen (s : State) (f : List Byte) : (s.transportWrite f).dlen = s.dlen := rfl
@[simp] theorem State.transportWrite_count (s : State) (f : List Byte) : (s.transportWrite f).count = s.count := rfl
@[simp] theorem State.transportWrite_buf (s : State) (f : List Byte) : (s.transportWrite f).buf = s.buf := rfl
@[simp] theorem State.transportWrite_frameOut (s : State) (f : List Byte) : (s.transportWrite f).frameOut = s.frameOut := rfl
@[simp] theorem State.transportWrite_rxData (s : State) (f : List Byte) : (s.transportWrite f).rxData = s.rxData := rfl
@[simp] theorem State.transportWrite_txStatus (s : State) (f : List Byte) : (s.transportWrite f).txStatus = s.txStatus := rfl
@[simp] theorem State.transportWrite_encResult (s : State) (f : List Byte) : (s.transportWrite f).encResult = s.encResult := rfl
@[simp] theorem State.transportWrite_rxReason (s : State) (f : List Byte) : (s.transportWrite f).rxReason = s.rxReason := rfl
@[simp] theorem State.transportWrite_source (s : State) (f : List Byte) : (s.transportWrite f).source = s.source := rfl
@[simp] theorem State.transportWrite_sink (s : State) (f : List Byte) : (s.transportWrite f).sink = s.sink ++ [f] := rfl
@[simp] theorem State.transportWrite_turns (s : State) (f : List Byte) : (s.transportWrite f).turns = s.turns := rfl

@[simp] theorem State.emit_params (s : State) (f : ParsedFrame) : (s.emit f).params = s.params := by cases f <;> rfl
@[simp] theorem State.emit_phase (s : State) (f : ParsedFrame) : (s.emit f).phase = s.phase := by cases f <;> rfl
@[simp] theorem State.emit_dlen (s : State) (f : ParsedFrame) : (s.emit f).dlen = s.dlen := by cases f <;> rfl
@[simp] theorem State.emit_count (s : State) (f : ParsedFrame) : (s.emit f).count = s.count := by cases f <;> rfl
@[simp] theorem State.emit_buf (s : State) (f : ParsedFrame) : (s.emit f).buf = s.buf := by cases f <;> rfl
@[simp] theorem State.emit_frameOut (s : State) (f : ParsedFrame) : (s.emit f).frameOut = some f := by cases f <;> rfl
@[simp] theorem State.emit_encResult (s : State) (f : ParsedFrame) : (s.emit f).encResult = s.encResult := by cases f <;> rfl
@[simp] theorem State.emit_rxReason (s : State) (f : ParsedFrame) : (s.emit f).rxReason = .none := by cases f <;> rfl
@[simp] theorem State.emit_source (s : State) (f : ParsedFrame) : (s.emit f).source = s.source := by cases f <;> rfl
@[simp] theorem State.emit_sink (s : State) (f : ParsedFrame) : (s.emit f).sink = s.sink := by cases f <;> rfl
@[simp] theorem State.emit_turns (s : State) (f : ParsedFrame) : (s.emit f).turns = s.turns := by cases f <;> rfl

@[simp] theorem State.emit_receivedData_rxData (s : State) (p : List Byte) :
    (s.emit (.receivedData p)).rxData = some p := rfl
@[simp] theorem State.emit_receivedData_txStatus (s : State) (p : List Byte) :
    (s.emit (.receivedData p)).txStatus = none := rfl
@[simp] theorem State.emit_transmitStatus_rxData (s : State) (ok : Bool) :
    (s.emit (.transmitStatus ok)).rxData = none := rfl
@[simp] theorem State.emit_transmitStatus_txStatus (s : State) (ok : Bool) :
    (s.emit (.transmitStatus ok)).txStatus = some ok := rfl

/-- Reading the buffer depends on `buf` alone. -/
theorem State.bufRead_congr {s t : State} (h : t.buf = s.buf) (i : Nat) : t.bufRead i = s.bufRead i := by
  simp [State.bufRead, h]

/-- A slice depends on the bytes in it alone. -/
theorem State.bufSlice_congr {s t : State} {a b : Nat} (h : ∀ i, a ≤ i → i < b → t.bufRead i = s.bufRead i) :
    t.bufSlice a b = s.bufSlice a b := by
  simp only [State.bufSlice]
  refine List.map_congr_left fun i hi => h i ?_ ?_ <;> simp [List.mem_range'_1] at hi <;> omega

@[simp] theorem State.clearOutputs_bufRead (s : State) (i : Nat) : (s.clearOutputs).bufRead i = s.bufRead i := rfl
@[simp] theorem State.clearOutputs_bufSlice (s : State) (i j : Nat) : (s.clearOutputs).bufSlice i j = s.bufSlice i j := rfl
@[simp] theorem State.setPhase_bufRead (s : State) (p : Phase) (i : Nat) : (s.setPhase p).bufRead i = s.bufRead i := rfl
@[simp] theorem State.setPhase_bufSlice (s : State) (p : Phase) (i j : Nat) : (s.setPhase p).bufSlice i j = s.bufSlice i j := rfl
@[simp] theorem State.setDlen_bufRead (s : State) (d : Len16) (i : Nat) : (s.setDlen d).bufRead i = s.bufRead i := rfl
@[simp] theorem State.setDlen_bufSlice (s : State) (d : Len16) (i j : Nat) : (s.setDlen d).bufSlice i j = s.bufSlice i j := rfl
@[simp] theorem State.setCount_bufRead (s : State) (n : Nat) (i : Nat) : (s.setCount n).bufRead i = s.bufRead i := rfl
@[simp] theorem State.setCount_bufSlice (s : State) (n : Nat) (i j : Nat) : (s.setCount n).bufSlice i j = s.bufSlice i j := rfl
@[simp] theorem State.discard_bufRead (s : State) (r : Reason) (i : Nat) : (s.discard r).bufRead i = s.bufRead i := rfl
@[simp] theorem State.discard_bufSlice (s : State) (r : Reason) (i j : Nat) : (s.discard r).bufSlice i j = s.bufSlice i j := rfl
@[simp] theorem State.enterDiscard_bufRead (s : State) (r : Reason) (i : Nat) : (s.enterDiscard r).bufRead i = s.bufRead i := rfl
@[simp] theorem State.enterDiscard_bufSlice (s : State) (r : Reason) (i j : Nat) : (s.enterDiscard r).bufSlice i j = s.bufSlice i j := rfl
@[simp] theorem State.setEncResult_bufRead (s : State) (e : EncResult) (i : Nat) : (s.setEncResult e).bufRead i = s.bufRead i := rfl
@[simp] theorem State.setEncResult_bufSlice (s : State) (e : EncResult) (i j : Nat) : (s.setEncResult e).bufSlice i j = s.bufSlice i j := rfl
@[simp] theorem State.transportWrite_bufRead (s : State) (f : List Byte) (i : Nat) : (s.transportWrite f).bufRead i = s.bufRead i := rfl
@[simp] theorem State.transportWrite_bufSlice (s : State) (f : List Byte) (i j : Nat) : (s.transportWrite f).bufSlice i j = s.bufSlice i j := rfl
@[simp] theorem State.emit_bufRead (s : State) (f : ParsedFrame) (i : Nat) : (s.emit f).bufRead i = s.bufRead i := by
  cases f <;> rfl

end Sys2Proof.Machine
end

