-- ==== Sys2Proof/Laws/Memory.lean ====
section
/-! SUPPORT. The laws of the buffer: a read after a write, and that a write keeps the canonical form and the capacity. -/

namespace Sys2Proof.Machine

open Sys2Proof

theorem Memory.read?_write_same (m : Memory) (i : Nat) (v : Byte) : (m.write i v).read? i = some v := by
  induction m with
  | nil => simp [Memory.write, Memory.read?]
  | cons c m ih =>
    obtain ⟨a, b⟩ := c
    by_cases h : i < a
    · simp [Memory.write, Memory.read?, h]
    · by_cases h' : i = a
      · simp [Memory.write, Memory.read?, h']
      · simp [Memory.write, Memory.read?, h, h', ih, Ne.symm h']

theorem Memory.read?_write_other (m : Memory) (i : Nat) (v : Byte) {j : Nat} (hj : j ≠ i) :
    (m.write i v).read? j = m.read? j := by
  induction m with
  | nil => simp [Memory.write, Memory.read?, hj.symm]
  | cons c m ih =>
    obtain ⟨a, b⟩ := c
    by_cases h : i < a
    · simp [Memory.write, Memory.read?, h, hj.symm]
    · by_cases h' : i = a
      · subst h'; simp [Memory.write, Memory.read?, hj.symm]
      · simp [Memory.write, Memory.read?, h, h', ih]

/-- The cells after a write are the old ones and the written one. -/
theorem Memory.mem_write {m : Memory} {i : Nat} {v : Byte} {c : Host.Cell} (h : c ∈ m.write i v) :
    c = (i, v) ∨ c ∈ m := by
  induction m with
  | nil => simpa [Memory.write] using h
  | cons d m ih =>
    obtain ⟨a, b⟩ := d
    simp only [Memory.write] at h
    split_ifs at h <;> simp only [List.mem_cons] at h ⊢
    · tauto
    · tauto
    · rcases h with h | h
      · exact .inr (.inl h)
      · rcases ih h with h | h <;> tauto

/-- A write keeps the canonical form. -/
theorem Memory.wf_write {m : Memory} (i : Nat) (v : Byte) (h : m.wf) : (m.write i v).wf := by
  induction m with
  | nil => simp [Memory.write, Memory.wf]
  | cons d m ih =>
    obtain ⟨a, b⟩ := d
    simp only [Memory.wf, List.map_cons, List.pairwise_cons, List.mem_map, forall_exists_index, and_imp,
      forall_apply_eq_imp_iff₂] at h ih
    by_cases h1 : i < a
    · rw [Memory.write, if_pos h1]
      simp only [Memory.wf, List.map_cons, List.pairwise_cons, List.mem_cons, List.mem_map,
        forall_eq_or_imp, forall_exists_index, and_imp, forall_apply_eq_imp_iff₂]
      exact ⟨⟨h1, fun c hc => lt_trans h1 (h.1 c hc)⟩, h.1, h.2⟩
    · by_cases h2 : i = a
      · subst h2
        simpa [Memory.write, Memory.wf] using h
      · simp only [Memory.write, h1, if_false, h2, Memory.wf, List.map_cons, List.pairwise_cons, List.mem_map,
          forall_exists_index, and_imp, forall_apply_eq_imp_iff₂]
        refine ⟨fun c hc => ?_, ih h.2⟩
        rcases Memory.mem_write hc with rfl | hc
        · exact lt_of_le_of_ne (not_lt.mp h1) (Ne.symm h2)
        · exact h.1 c hc

/-- The empty buffer of reset is in canonical form. -/
theorem State.reset_buf_wf : State.reset.buf.wf := by decide

/-- Appending keeps the canonical form. -/
theorem State.appendByte_wf {s : State} (b : Byte) (h : s.buf.wf) : (s.appendByte b).buf.wf :=
  Memory.wf_write s.count b h

/-- Appending inside the capacity keeps every index inside it. -/
theorem State.appendByte_cap {s : State} {n : Nat} (b : Byte) (h : ∀ c ∈ s.buf, c.1 < n) (hc : s.count < n) :
    ∀ c ∈ (s.appendByte b).buf, c.1 < n := by
  intro c hm
  rcases Memory.mem_write hm with rfl | hm
  · exact hc
  · exact h c hm

@[simp] theorem State.appendByte_bufRead_count (s : State) (b : Byte) : (s.appendByte b).bufRead s.count = b := by
  simp [State.bufRead, Memory.read?_write_same]

theorem State.appendByte_bufRead_other (s : State) (b : Byte) {i : Nat} (h : i ≠ s.count) :
    (s.appendByte b).bufRead i = s.bufRead i := by
  simp [State.bufRead, Memory.read?_write_other _ _ _ h]

/-- A slice that ends at or below `count` does not see the appended byte. -/
theorem State.appendByte_bufSlice (s : State) (b : Byte) {i j : Nat} (h : j ≤ s.count) :
    (s.appendByte b).bufSlice i j = s.bufSlice i j :=
  State.bufSlice_congr fun k _ hk => s.appendByte_bufRead_other b (by omega)

@[simp] theorem State.bufSlice_length (s : State) (a b : Nat) : (s.bufSlice a b).length = b - a := by
  simp [State.bufSlice]

/-- A slice grows by its next byte. -/
theorem State.bufSlice_succ (s : State) {a b : Nat} (h : a ≤ b) :
    s.bufSlice a (b + 1) = s.bufSlice a b ++ [s.bufRead b] := by
  obtain ⟨n, rfl⟩ := Nat.exists_eq_add_of_le h
  simp [State.bufSlice, show a + n + 1 - a = n + 1 by omega, List.range'_concat]

/-- A slice starts with its first byte. -/
theorem State.bufSlice_cons (s : State) {a b : Nat} (h : a < b) :
    s.bufSlice a b = s.bufRead a :: s.bufSlice (a + 1) b := by
  obtain ⟨n, rfl⟩ := Nat.exists_eq_add_of_lt h
  simp [State.bufSlice, show a + n + 1 - a = n + 1 by omega, show a + n + 1 - (a + 1) = n by omega, List.range'_succ]

/-- Dropping from a slice moves its start. -/
theorem State.bufSlice_drop (s : State) (a b n : Nat) : (s.bufSlice a b).drop n = s.bufSlice (a + n) b := by
  simp [State.bufSlice, ← List.map_drop, List.drop_range', Nat.sub_add_eq]

/-- An element of a slice is the byte of the buffer it stands for. -/
theorem State.bufSlice_getElem? (s : State) {a b n : Nat} (h : a + n < b) :
    (s.bufSlice a b)[n]? = some (s.bufRead (a + n)) := by
  simp [State.bufSlice, show n < b - a by omega]

end Sys2Proof.Machine
end

