-- ==== Sys2Proof/Laws/Meanings.lean ====
section
/-! SUPPORT. One spec lemma per meaning and shared operation. `stepped` and `dispatched` say once everything STEP and DISPATCH
do, as plain functions; a proof about STEP cites `exec_step` and splits `stepped`. -/

namespace Sys2Proof.Machine

open Sys2Proof

/-- The state that DISPATCH leaves (42_dispatcher.md R150 to R153). -/
def dispatched (s : State) : State :=
  if s.bufRead 0 = 0x90 then
    if s.dlen.toNat < 12 then s.discard .malformedShortBody else s.emit (.receivedData (s.bufSlice 12 s.dlen.toNat))
  else if s.bufRead 0 = 0x8B then
    if s.dlen.toNat < 7 then s.discard .malformedShortBody else s.emit (.transmitStatus (s.bufRead 5 == 0x00))
  else s.discard .unknownFrameType

/-- The state that STEP leaves (41_decoder.md R120 to R128). -/
def stepped (b : Byte) (s : State) : State :=
  match s.phase with
  | .awaitingStart =>
    if b = 0x7E then ((s.clearOutputs.setPhase .awaitingLengthHigh).setDlen 0).setCount 0 else s.clearOutputs
  | .awaitingLengthHigh => (s.clearOutputs.setDlen (dlenOfHigh b)).setPhase .awaitingLengthLow
  | .awaitingLengthLow =>
    if (dlenOrLow s.dlen b).toNat + 1 > s.params.rxBufCap ∨ (dlenOrLow s.dlen b).toNat < s.params.minLen then
      (s.clearOutputs.setDlen (dlenOrLow s.dlen b)).enterDiscard .malformedLength
    else (s.clearOutputs.setDlen (dlenOrLow s.dlen b)).setPhase .accumulatingBody
  | .accumulatingBody =>
    if s.dlen.toNat < s.count ∨ s.params.rxBufCap ≤ s.count then s.clearOutputs.enterDiscard .invariantReset
    else if s.count < s.dlen.toNat then s.clearOutputs.appendByte b
    else if (sum8 (s.bufSlice 0 s.dlen.toNat) + b.toNat) % 256 = 0xFF then dispatched (completedBy s b)
    else (completedBy s b).discard .checksumMismatch

/-- The state that ENCODE leaves (40_encoder.md R100, R105). -/
def encoded (addr : Addr64) (payload : List Byte) (s : State) : State :=
  if payload.length + 18 > s.params.txMaxFrame then s.clearOutputs.setEncResult (.err .payloadTooLarge)
  else (s.clearOutputs.setEncResult (.ok (envelope (txBody addr payload)))).transportWrite (envelope (txBody addr payload))

/-! DISPATCH writes no DecoderState and nothing but the output ports (42_dispatcher.md R150). -/

@[simp] theorem dispatched_params (s : State) : (dispatched s).params = s.params := by
  unfold dispatched; split_ifs <;> simp
@[simp] theorem dispatched_phase (s : State) : (dispatched s).phase = s.phase := by
  unfold dispatched; split_ifs <;> simp
@[simp] theorem dispatched_dlen (s : State) : (dispatched s).dlen = s.dlen := by
  unfold dispatched; split_ifs <;> simp
@[simp] theorem dispatched_count (s : State) : (dispatched s).count = s.count := by
  unfold dispatched; split_ifs <;> simp
@[simp] theorem dispatched_buf (s : State) : (dispatched s).buf = s.buf := by
  unfold dispatched; split_ifs <;> simp
@[simp] theorem dispatched_encResult (s : State) : (dispatched s).encResult = s.encResult := by
  unfold dispatched; split_ifs <;> simp
@[simp] theorem dispatched_source (s : State) : (dispatched s).source = s.source := by
  unfold dispatched; split_ifs <;> simp
@[simp] theorem dispatched_sink (s : State) : (dispatched s).sink = s.sink := by
  unfold dispatched; split_ifs <;> simp
@[simp] theorem dispatched_turns (s : State) : (dispatched s).turns = s.turns := by
  unfold dispatched; split_ifs <;> simp
@[simp] theorem dispatched_bufRead (s : State) (i : Nat) : (dispatched s).bufRead i = s.bufRead i :=
  State.bufRead_congr (dispatched_buf s) i

/-! The state RX_COMPLETE validates. -/

@[simp] theorem completedBy_params (s : State) (b : Byte) : (completedBy s b).params = s.params := rfl
@[simp] theorem completedBy_phase (s : State) (b : Byte) : (completedBy s b).phase = .awaitingStart := rfl
@[simp] theorem completedBy_dlen (s : State) (b : Byte) : (completedBy s b).dlen = s.dlen := rfl
@[simp] theorem completedBy_count (s : State) (b : Byte) : (completedBy s b).count = s.count + 1 := rfl
@[simp] theorem completedBy_buf (s : State) (b : Byte) : (completedBy s b).buf = s.buf.write s.count b := rfl
@[simp] theorem completedBy_encResult (s : State) (b : Byte) : (completedBy s b).encResult = s.encResult := rfl
@[simp] theorem completedBy_source (s : State) (b : Byte) : (completedBy s b).source = s.source := rfl
@[simp] theorem completedBy_sink (s : State) (b : Byte) : (completedBy s b).sink = s.sink := rfl
@[simp] theorem completedBy_turns (s : State) (b : Byte) : (completedBy s b).turns = s.turns := rfl

/-! What STEP leaves, row by row (41_decoder.md R121 to R128). -/

theorem stepped_start {s : State} (h : s.phase = .awaitingStart) :
    stepped 0x7E s = ((s.clearOutputs.setPhase .awaitingLengthHigh).setDlen 0).setCount 0 := by
  simp [stepped, h]

theorem stepped_ignore {s : State} {b : Byte} (h : s.phase = .awaitingStart) (hb : b ≠ 0x7E) :
    stepped b s = s.clearOutputs := by
  simp only [stepped, h, if_neg hb]

theorem stepped_high {s : State} (b : Byte) (h : s.phase = .awaitingLengthHigh) :
    stepped b s = (s.clearOutputs.setDlen (dlenOfHigh b)).setPhase .awaitingLengthLow := by
  simp only [stepped, h]

theorem stepped_low_discard {s : State} {b : Byte} (h : s.phase = .awaitingLengthLow)
    (hl : (dlenOrLow s.dlen b).toNat + 1 > s.params.rxBufCap ∨ (dlenOrLow s.dlen b).toNat < s.params.minLen) :
    stepped b s = (s.clearOutputs.setDlen (dlenOrLow s.dlen b)).enterDiscard .malformedLength := by
  simp only [stepped, h, if_pos hl]

theorem stepped_low_accept {s : State} {b : Byte} (h : s.phase = .awaitingLengthLow)
    (hl : ¬ ((dlenOrLow s.dlen b).toNat + 1 > s.params.rxBufCap ∨ (dlenOrLow s.dlen b).toNat < s.params.minLen)) :
    stepped b s = (s.clearOutputs.setDlen (dlenOrLow s.dlen b)).setPhase .accumulatingBody := by
  simp only [stepped, h, if_neg hl]

theorem stepped_forced {s : State} (b : Byte) (h : s.phase = .accumulatingBody)
    (hf : s.dlen.toNat < s.count ∨ s.params.rxBufCap ≤ s.count) :
    stepped b s = s.clearOutputs.enterDiscard .invariantReset := by
  simp only [stepped, h, if_pos hf]

theorem stepped_body {s : State} (b : Byte) (h : s.phase = .accumulatingBody) (hc : s.count < s.dlen.toNat)
    (hcap : s.count < s.params.rxBufCap) : stepped b s = s.clearOutputs.appendByte b := by
  simp only [stepped, h, if_neg (show ¬ (s.dlen.toNat < s.count ∨ s.params.rxBufCap ≤ s.count) by omega), if_pos hc]

theorem stepped_dispatch {s : State} {b : Byte} (h : Completing s)
    (hv : (sum8 (s.bufSlice 0 s.dlen.toNat) + b.toNat) % 256 = 0xFF) :
    stepped b s = dispatched (completedBy s b) := by
  obtain ⟨hp, hc, hcap⟩ := h
  simp only [stepped, hp, if_neg (show ¬ (s.dlen.toNat < s.count ∨ s.params.rxBufCap ≤ s.count) by omega),
    if_neg (show ¬ s.count < s.dlen.toNat by omega), if_pos hv]

theorem stepped_mismatch {s : State} {b : Byte} (h : Completing s)
    (hv : (sum8 (s.bufSlice 0 s.dlen.toNat) + b.toNat) % 256 ≠ 0xFF) :
    stepped b s = (completedBy s b).discard .checksumMismatch := by
  obtain ⟨hp, hc, hcap⟩ := h
  simp only [stepped, hp, if_neg (show ¬ (s.dlen.toNat < s.count ∨ s.params.rxBufCap ≤ s.count) by omega),
    if_neg (show ¬ s.count < s.dlen.toNat by omega), if_neg hv]

/-- Everything one STEP can do: a property of the state after it follows from the nine cases. -/
theorem stepped_cases {P : State → Prop} (b : Byte) (s : State)
    (start : s.phase = .awaitingStart → b = 0x7E →
      P (((s.clearOutputs.setPhase .awaitingLengthHigh).setDlen 0).setCount 0))
    (ignore : s.phase = .awaitingStart → b ≠ 0x7E → P s.clearOutputs)
    (high : s.phase = .awaitingLengthHigh → P ((s.clearOutputs.setDlen (dlenOfHigh b)).setPhase .awaitingLengthLow))
    (low_discard : s.phase = .awaitingLengthLow →
      ((dlenOrLow s.dlen b).toNat + 1 > s.params.rxBufCap ∨ (dlenOrLow s.dlen b).toNat < s.params.minLen) →
      P ((s.clearOutputs.setDlen (dlenOrLow s.dlen b)).enterDiscard .malformedLength))
    (low_accept : s.phase = .awaitingLengthLow →
      ¬ ((dlenOrLow s.dlen b).toNat + 1 > s.params.rxBufCap ∨ (dlenOrLow s.dlen b).toNat < s.params.minLen) →
      P ((s.clearOutputs.setDlen (dlenOrLow s.dlen b)).setPhase .accumulatingBody))
    (forced : s.phase = .accumulatingBody → (s.dlen.toNat < s.count ∨ s.params.rxBufCap ≤ s.count) →
      P (s.clearOutputs.enterDiscard .invariantReset))
    (body : s.phase = .accumulatingBody → s.count < s.dlen.toNat → s.count < s.params.rxBufCap →
      P (s.clearOutputs.appendByte b))
    (dispatch : Completing s → (sum8 (s.bufSlice 0 s.dlen.toNat) + b.toNat) % 256 = 0xFF →
      P (dispatched (completedBy s b)))
    (mismatch : Completing s → (sum8 (s.bufSlice 0 s.dlen.toNat) + b.toNat) % 256 ≠ 0xFF →
      P ((completedBy s b).discard .checksumMismatch)) :
    P (stepped b s) := by
  cases hp : s.phase with
  | awaitingStart =>
    by_cases hb : b = 0x7E
    · rw [hb, stepped_start hp]; exact start hp hb
    · rw [stepped_ignore hp hb]; exact ignore hp hb
  | awaitingLengthHigh => rw [stepped_high b hp]; exact high hp
  | awaitingLengthLow =>
    by_cases hl : (dlenOrLow s.dlen b).toNat + 1 > s.params.rxBufCap ∨ (dlenOrLow s.dlen b).toNat < s.params.minLen
    · rw [stepped_low_discard hp hl]; exact low_discard hp hl
    · rw [stepped_low_accept hp hl]; exact low_accept hp hl
  | accumulatingBody =>
    by_cases hf : s.dlen.toNat < s.count ∨ s.params.rxBufCap ≤ s.count
    · rw [stepped_forced b hp hf]; exact forced hp hf
    by_cases hc : s.count < s.dlen.toNat
    · rw [stepped_body b hp hc (by omega)]; exact body hp hc (by omega)
    have hC : Completing s := ⟨hp, by omega, by omega⟩
    by_cases hv : (sum8 (s.bufSlice 0 s.dlen.toNat) + b.toNat) % 256 = 0xFF
    · rw [stepped_dispatch hC hv]; exact dispatch hC hv
    · rw [stepped_mismatch hC hv]; exact mismatch hC hv

/-! What STEP leaves alone in every case (20_memory.md R52). -/

@[simp] theorem stepped_params (b : Byte) (s : State) : (stepped b s).params = s.params := by
  refine stepped_cases (P := fun t => t.params = s.params) b s ?_ ?_ ?_ ?_ ?_ ?_ ?_ ?_ ?_ <;> intros <;> simp
@[simp] theorem stepped_encResult (b : Byte) (s : State) : (stepped b s).encResult = s.encResult := by
  refine stepped_cases (P := fun t => t.encResult = s.encResult) b s ?_ ?_ ?_ ?_ ?_ ?_ ?_ ?_ ?_ <;> intros <;> simp
@[simp] theorem stepped_source (b : Byte) (s : State) : (stepped b s).source = s.source := by
  refine stepped_cases (P := fun t => t.source = s.source) b s ?_ ?_ ?_ ?_ ?_ ?_ ?_ ?_ ?_ <;> intros <;> simp
@[simp] theorem stepped_sink (b : Byte) (s : State) : (stepped b s).sink = s.sink := by
  refine stepped_cases (P := fun t => t.sink = s.sink) b s ?_ ?_ ?_ ?_ ?_ ?_ ?_ ?_ ?_ <;> intros <;> simp
@[simp] theorem stepped_turns (b : Byte) (s : State) : (stepped b s).turns = s.turns := by
  refine stepped_cases (P := fun t => t.turns = s.turns) b s ?_ ?_ ?_ ?_ ?_ ?_ ?_ ?_ ?_ <;> intros <;> simp

theorem checksumValid_iff (body : List Byte) (c : Byte) :
    checksumValid body c = true ↔ (sum8 body + c.toNat) % 256 = 0xFF := by
  simp [checksumValid]

/-! The `cond` column of the AccumulatingBody rows in a state (30_encoding.md R76). -/

@[simp] theorem State.bodyRow_iff (s : State) :
    s.rxContext.bodyRow = true ↔ s.count < s.dlen.toNat ∧ s.count < s.params.rxBufCap :=
  ⟨fun h => of_decide_eq_true h, fun h => decide_eq_true h⟩

@[simp] theorem State.completeRow_iff (s : State) :
    s.rxContext.completeRow = true ↔ s.count = s.dlen.toNat ∧ s.count < s.params.rxBufCap :=
  ⟨fun h => of_decide_eq_true h, fun h => decide_eq_true h⟩

@[simp] theorem State.forcedRow_iff (s : State) :
    s.rxContext.forcedRow = true ↔ s.dlen.toNat < s.count ∨ s.params.rxBufCap ≤ s.count :=
  ⟨fun h => of_decide_eq_true h, fun h => decide_eq_true h⟩

theorem sum8_lt (bs : List Byte) : sum8 bs < 256 := Nat.mod_lt _ (by decide)

theorem State.completedFrame_iff (s : State) (t : Byte) :
    s.completedFrame t = true ↔ HoldsValidFrame s ∧ s.bufRead 0 = t := by
  simp [State.completedFrame, HoldsValidFrame, State.checksumOk, checksumValid_iff, State.body, State.checksumByte,
    State.frameType, and_assoc]

/-- FT_RXPKT where the table selects it. -/
theorem execFtRxpkt_next {s : State} (h : ArmApplies s .ftRxpkt) : execFtRxpkt s =
    .next (if s.dlen.toNat < 12 then s.discard .malformedShortBody
      else s.emit (.receivedData (s.bufSlice 12 s.dlen.toNat))) := by
  rw [execFtRxpkt, if_pos ((s.completedFrame_iff Config.T_RXPKT).mpr h)]
  show (if s.dlen.toNat < 12 then _ else _) = _
  split_ifs <;> rfl

theorem execFtRxpkt_refused {s : State} (h : ¬ ArmApplies s .ftRxpkt) :
    execFtRxpkt s = .refused .rowNotSelected := by
  rw [execFtRxpkt, if_neg (mt (s.completedFrame_iff Config.T_RXPKT).mp h)]

/-- FT_TXSTAT where the table selects it. -/
theorem execFtTxstat_next {s : State} (h : ArmApplies s .ftTxstat) : execFtTxstat s =
    .next (if s.dlen.toNat < 7 then s.discard .malformedShortBody
      else s.emit (.transmitStatus (s.bufRead 5 == 0x00))) := by
  rw [execFtTxstat, if_pos ((s.completedFrame_iff Config.T_TXSTAT).mpr h)]
  show (if s.dlen.toNat < 7 then _ else _) = _
  split_ifs <;> rfl

theorem execFtTxstat_refused {s : State} (h : ¬ ArmApplies s .ftTxstat) :
    execFtTxstat s = .refused .rowNotSelected := by
  rw [execFtTxstat, if_neg (mt (s.completedFrame_iff Config.T_TXSTAT).mp h)]

/-- FT_TXREQ where the table selects it. -/
theorem execFtTxreq_next {s : State} (h : ArmApplies s .ftTxreq) :
    execFtTxreq s = .next (s.discard .unknownFrameType) := by
  rw [execFtTxreq, if_pos ((s.completedFrame_iff Config.T_TXREQ).mpr h)]

theorem execFtTxreq_refused {s : State} (h : ¬ ArmApplies s .ftTxreq) :
    execFtTxreq s = .refused .rowNotSelected := by
  rw [execFtTxreq, if_neg (mt (s.completedFrame_iff Config.T_TXREQ).mp h)]

/-- FT_UNKNOWN where the table selects it. -/
theorem execFtUnknown_next {s : State} {t : Byte} (h : ArmApplies s (.ftUnknown t)) :
    execFtUnknown t s = .next (s.discard .unknownFrameType) := by
  rw [execFtUnknown, if_pos ⟨(s.completedFrame_iff _).mpr ⟨h.1, h.2.1⟩, h.2.2⟩]

theorem execFtUnknown_refused {s : State} {t : Byte} (h : ¬ ArmApplies s (.ftUnknown t)) :
    execFtUnknown t s = .refused .rowNotSelected := by
  rw [execFtUnknown, if_neg]
  rintro ⟨hc, ht⟩
  exact h ⟨((s.completedFrame_iff _).mp hc).1, ((s.completedFrame_iff _).mp hc).2, ht⟩

/-- DISPATCH in every state that meets its precondition. -/
theorem dispatch_eq {s : State} (h : HoldsValidFrame s) : dispatch s = .next (dispatched s) := by
  unfold dispatch dispatched State.frameType
  by_cases h1 : s.bufRead 0 = 0x90
  · rw [if_pos (show s.bufRead 0 = Config.T_RXPKT from h1), if_pos h1, execFtRxpkt_next ⟨h, h1⟩]
  rw [if_neg (show ¬ s.bufRead 0 = Config.T_RXPKT from h1), if_neg h1]
  by_cases h2 : s.bufRead 0 = 0x8B
  · rw [if_pos (show s.bufRead 0 = Config.T_TXSTAT from h2), if_pos h2, execFtTxstat_next ⟨h, h2⟩]
  rw [if_neg (show ¬ s.bufRead 0 = Config.T_TXSTAT from h2), if_neg h2]
  by_cases h3 : s.bufRead 0 = 0x10
  · rw [if_pos (show s.bufRead 0 = Config.T_TXREQ from h3), execFtTxreq_next ⟨h, h3⟩]
  · rw [if_neg (show ¬ s.bufRead 0 = Config.T_TXREQ from h3), execFtUnknown_next ⟨h, rfl, h1, h2⟩]

/-- The state RX_COMPLETE validates holds a frame, and its checksum is the byte just taken. -/
theorem completedBy_slice {s : State} (h : s.count = s.dlen.toNat) (b : Byte) (a : Nat) :
    (completedBy s b).bufSlice a s.dlen.toNat = s.bufSlice a s.dlen.toNat := by
  simp only [completedBy, State.setPhase_bufSlice]
  rw [State.appendByte_bufSlice _ _ (by simp [h])]; rfl

theorem completedBy_last {s : State} (h : s.count = s.dlen.toNat) (b : Byte) :
    (completedBy s b).bufRead s.dlen.toNat = b := by
  rw [← h]; exact State.appendByte_bufRead_count s.clearOutputs b

theorem completedBy_bufRead_other (s : State) (b : Byte) {i : Nat} (h : i ≠ s.count) :
    (completedBy s b).bufRead i = s.bufRead i :=
  State.appendByte_bufRead_other s.clearOutputs b h

theorem completedBy_checksumOk {s : State} (h : s.count = s.dlen.toNat) (b : Byte) :
    (completedBy s b).checksumOk = true ↔ (sum8 (s.bufSlice 0 s.dlen.toNat) + b.toNat) % 256 = 0xFF := by
  rw [State.checksumOk, checksumValid_iff, State.body, State.checksumByte]
  rw [show (completedBy s b).dlen = s.dlen from rfl, completedBy_slice h, completedBy_last h]

theorem completedBy_holdsValidFrame {s : State} (h : s.count = s.dlen.toNat) (hc : s.count < s.params.rxBufCap) {b : Byte}
    (hv : (sum8 (s.bufSlice 0 s.dlen.toNat) + b.toNat) % 256 = 0xFF) : HoldsValidFrame (completedBy s b) := by
  refine ⟨congrArg (· + 1) h, hc, ?_⟩
  rw [show (completedBy s b).dlen = s.dlen from rfl, completedBy_slice h, completedBy_last h]
  exact hv

/-- RX_COMPLETE where the table selects it. -/
theorem execRxComplete_eq {s : State} (hp : s.phase = .accumulatingBody) (h : s.count = s.dlen.toNat)
    (hc : s.count < s.params.rxBufCap) (b : Byte) : execRxComplete b s =
      .next (if (sum8 (s.bufSlice 0 s.dlen.toNat) + b.toNat) % 256 = 0xFF then dispatched (completedBy s b)
        else (completedBy s b).discard .checksumMismatch) := by
  rw [execRxComplete, if_pos ⟨hp, (s.completeRow_iff).mpr ⟨h, hc⟩⟩]
  show (if (completedBy s b).checksumOk then dispatch (completedBy s b)
    else .next ((completedBy s b).discard .checksumMismatch)) = _
  by_cases hv : (sum8 (s.bufSlice 0 s.dlen.toNat) + b.toNat) % 256 = 0xFF
  · rw [if_pos ((completedBy_checksumOk h b).mpr hv), if_pos hv, dispatch_eq (completedBy_holdsValidFrame h hc hv)]
  · rw [if_neg (mt (completedBy_checksumOk h b).mp hv), if_neg hv]

/-- RX_LEN_LO where the table selects it. -/
theorem execRxLenLo_eq {s : State} (hp : s.phase = .awaitingLengthLow) (b : Byte) : execRxLenLo b s =
    .next (if (dlenOrLow s.dlen b).toNat + 1 > s.params.rxBufCap ∨ (dlenOrLow s.dlen b).toNat < s.params.minLen then
      (s.clearOutputs.setDlen (dlenOrLow s.dlen b)).enterDiscard .malformedLength
    else (s.clearOutputs.setDlen (dlenOrLow s.dlen b)).setPhase .accumulatingBody) := by
  rw [execRxLenLo, if_pos hp]
  by_cases h : (dlenOrLow s.dlen b).toNat + 1 > s.params.rxBufCap ∨ (dlenOrLow s.dlen b).toNat < s.params.minLen
  · rw [if_pos h]
    show (if lengthAccepted s.params (dlenOrLow s.dlen b) = true then _ else _) = _
    rw [if_neg (by rw [lengthAccepted, decide_eq_true h]; decide)]
  · rw [if_neg h]
    show (if lengthAccepted s.params (dlenOrLow s.dlen b) = true then _ else _) = _
    rw [if_pos (by rw [lengthAccepted, decide_eq_false h]; rfl)]

/-- STEP, from every state and on every byte. -/
theorem exec_step (b : Byte) (s : State) : exec (.step b) s = .next (stepped b s) := by
  show execStep b s = _
  unfold execStep stepped
  cases hp : s.phase <;> dsimp only
  · by_cases hb : b = 0x7E
    · rw [if_pos (show b = Config.START from hb), if_pos hb, execRxStart, if_pos hp]
    · rw [if_neg (show ¬ b = Config.START from hb), if_neg hb, execRxIgnore, if_pos ⟨hp, hb⟩]
  · rw [execRxLenHi, if_pos hp]
  · exact execRxLenLo_eq hp b
  · by_cases hf : s.dlen.toNat < s.count ∨ s.params.rxBufCap ≤ s.count
    · rw [if_pos (by omega), if_pos hf, execRxForcedReset, if_pos ⟨hp, s.forcedRow_iff.mpr hf⟩]
    · rw [if_neg (by omega), if_neg hf]
      by_cases hb : s.count < s.dlen.toNat
      · rw [if_pos (by omega), if_pos hb, execRxBody,
          if_pos ⟨hp, s.bodyRow_iff.mpr ⟨hb, by omega⟩⟩]
      · rw [if_neg (by omega), if_neg hb, execRxComplete_eq hp (by omega) (by omega)]

/-- ENCODE, from every state and on every operand. -/
theorem exec_encode (addr : Addr64) (payload : List Byte) (s : State) :
    exec (.encode addr payload) s = .next (encoded addr payload s) := by
  show execEncode addr payload s = _
  unfold execEncode encoded encodeFrame
  by_cases h : payload.length + 18 > s.params.txMaxFrame <;> simp [h]

/-- RESET, from every state. -/
theorem exec_reset (s : State) :
    exec .reset s = .next (((s.clearOutputs.setPhase .awaitingStart).setDlen 0).setCount 0) := rfl

/-- STEP*, from every state. -/
theorem feed_eq (bs : List Byte) (s : State) : feed bs s = .next (bs.foldl (fun t b => stepped b t) s) := by
  induction bs generalizing s with
  | nil => rfl
  | cons b bs ih => simp [feed, exec_step, ih]

theorem frameTrace_cons (b : Byte) (bs : List Byte) (s : State) :
    frameTrace (b :: bs) s = (stepped b s).frameOut :: frameTrace bs (stepped b s) := by
  simp [frameTrace, exec_step]

theorem frameTrace_append (bs cs : List Byte) (s : State) :
    frameTrace (bs ++ cs) s = frameTrace bs s ++ frameTrace cs (bs.foldl (fun t b => stepped b t) s) := by
  induction bs generalizing s with
  | nil => rfl
  | cons b bs ih => simp [frameTrace_cons, ih]

end Sys2Proof.Machine
end

