-- ==== Sys2Proof/Laws/Operands.lean ====
section
/-! SUPPORT. The operand forms as numbers and byte lists: the two length bytes of each direction, and the frame ENCODE builds. -/

namespace Sys2Proof.Machine

open Sys2Proof

theorem dlenOfHigh_high (b : Byte) : (dlenOfHigh b).extractLsb' 8 8 = b := by revert b; decide

theorem dlenOfHigh_low (b : Byte) : (dlenOfHigh b).extractLsb' 0 8 = (0 : Byte) := by revert b; decide

/-- The assembled length is `len_hi × 256 + len_lo` (30_encoding.md R61). -/
theorem dlenOrLow_toNat (hi lo : Byte) : (dlenOrLow (dlenOfHigh hi) lo).toNat = hi.toNat * 256 + lo.toNat := by
  have hh := hi.isLt
  have hl := lo.isLt
  unfold dlenOrLow dlenOfHigh
  rw [BitVec.toNat_or, BitVec.toNat_shiftLeft, BitVec.toNat_setWidth, BitVec.toNat_setWidth,
    Nat.mod_eq_of_lt (a := hi.toNat) (by omega), Nat.mod_eq_of_lt (a := lo.toNat) (by omega), Nat.shiftLeft_eq,
    Nat.mod_eq_of_lt (by omega), ← Nat.shiftLeft_eq, ← Nat.shiftLeft_add_eq_or_of_lt hl, Nat.shiftLeft_eq]

theorem hiByte_ofNat (n : Nat) : hiByte (BitVec.ofNat 16 n) = BitVec.ofNat 8 (n / 256) := by
  apply BitVec.eq_of_toNat_eq
  simp only [hiByte, BitVec.extractLsb'_toNat, BitVec.toNat_ofNat, Nat.shiftRight_eq_div_pow]
  omega

theorem loByte_ofNat (n : Nat) : loByte (BitVec.ofNat 16 n) = BitVec.ofNat 8 n := by
  apply BitVec.eq_of_toNat_eq
  simp only [loByte, BitVec.extractLsb'_toNat, BitVec.toNat_ofNat, Nat.shiftRight_eq_div_pow]
  omega

/-- The envelope ENCODE builds is the one the decoder takes apart. -/
theorem envelope_eq_frameBytes (body : List Byte) : envelope body = frameBytes body := by
  simp only [envelope, frameBytes, hiByte_ofNat, loByte_ofNat]; rfl

@[simp] theorem frameBytes_length (body : List Byte) : (frameBytes body).length = body.length + 4 := by
  simp [frameBytes]

/-- The transmit-request body, byte for byte (30_encoding.md R62). -/
theorem txBody_eq (addr : Addr64) (payload : List Byte) : txBody addr payload =
    [0x10, 0x01, addr.extractLsb' 56 8, addr.extractLsb' 48 8, addr.extractLsb' 40 8, addr.extractLsb' 32 8,
      addr.extractLsb' 24 8, addr.extractLsb' 16 8, addr.extractLsb' 8 8, addr.extractLsb' 0 8, 0xFF, 0xFE, 0x00,
      0x00] ++ payload := by
  unfold txBody
  congr 1

@[simp] theorem txBody_length (addr : Addr64) (payload : List Byte) :
    (txBody addr payload).length = payload.length + 14 := by
  simp [txBody_eq]

end Sys2Proof.Machine
end

