-- ==== Sys2Proof/Laws/PerInstr.lean ====
section
/-! SUPPORT. The family DecodeEncode: for each instruction, decoding its encoding gives it back in every context that admits
it. One lemma per constructor of Instr. -/

namespace Sys2Proof.Laws.DecodeEncode

open Sys2Proof

/-- What the family says of one instruction. -/
def Statement (i : Instr) : Prop :=
  ∀ c : RxContext, i.wellFormed → c.admits i → decode c (encode i) = .ok i

theorem step (b : Byte) : Statement (.step b) := fun _ _ _ => rfl

theorem encode (addr : Addr64) (payload : List Byte) : Statement (.encode addr payload) := fun _ _ _ => rfl

theorem reset : Statement .reset := fun _ _ _ => rfl

theorem rxStart : Statement .rxStart := fun c _ _ => by
  simp [decode, Sys2Proof.encode, decodeTransition_word]

theorem rxIgnore (b : Byte) : Statement (.rxIgnore b) := fun c hw _ => by
  simp only [Instr.wellFormed, bne_iff_ne] at hw
  simp [decode, Sys2Proof.encode, decodeTransition_word, hw]

theorem rxLenHi (b : Byte) : Statement (.rxLenHi b) := fun c _ _ => by
  simp [decode, Sys2Proof.encode, decodeTransition_word]

theorem rxLenLo (b : Byte) : Statement (.rxLenLo b) := fun c _ _ => by
  simp [decode, Sys2Proof.encode, decodeTransition_word]

theorem rxBody (b : Byte) : Statement (.rxBody b) := fun c _ hc => by
  have := c.rows_partition
  simp only [RxContext.admits] at hc
  simp_all [decode, Sys2Proof.encode, decodeTransition_word]

theorem rxComplete (b : Byte) : Statement (.rxComplete b) := fun c _ hc => by
  have := c.rows_partition
  simp only [RxContext.admits] at hc
  simp_all [decode, Sys2Proof.encode, decodeTransition_word]

theorem rxForcedReset (b : Byte) : Statement (.rxForcedReset b) := fun c _ hc => by
  simp only [RxContext.admits] at hc
  simp [decode, Sys2Proof.encode, decodeTransition_word, hc]

theorem ftRxpkt : Statement .ftRxpkt := fun _ _ _ => rfl

theorem ftTxstat : Statement .ftTxstat := fun _ _ _ => rfl

theorem ftTxreq : Statement .ftTxreq := fun _ _ _ => rfl

theorem ftUnknown (t : Byte) : Statement (.ftUnknown t) := fun c hw _ => by
  simp only [Instr.wellFormed, Bool.and_eq_true, bne_iff_ne] at hw
  simp [decode, Sys2Proof.encode, decodeFrameType, hw]

end Sys2Proof.Laws.DecodeEncode
end

