-- ==== Sys2Proof/Laws/Step.lean ====
section
/-! SUPPORT. Everything an instruction and a step can do, said once: `exec_next_cases` for `exec`, `step_cases` for `step`, and
`run_keeps`, the induction that carries a property every step keeps along a run. -/

namespace Sys2Proof.Machine

open Sys2Proof

/-- Everything DISPATCH can do: a property of the state after it follows from the five cases. -/
theorem dispatched_cases {P : State → Prop} (s : State)
    (short_rxpkt : s.bufRead 0 = 0x90 → s.dlen.toNat < 12 → P (s.discard .malformedShortBody))
    (rxpkt : s.bufRead 0 = 0x90 → ¬ s.dlen.toNat < 12 → P (s.emit (.receivedData (s.bufSlice 12 s.dlen.toNat))))
    (short_txstat : s.bufRead 0 = 0x8B → s.dlen.toNat < 7 → P (s.discard .malformedShortBody))
    (txstat : s.bufRead 0 = 0x8B → ¬ s.dlen.toNat < 7 → P (s.emit (.transmitStatus (s.bufRead 5 == 0x00))))
    (unknown : s.bufRead 0 ≠ 0x90 → s.bufRead 0 ≠ 0x8B → P (s.discard .unknownFrameType)) :
    P (dispatched s) := by
  unfold dispatched
  split_ifs <;> tauto

/-! ENCODE leaves DecoderState, the parameters and what is still to come alone (20_memory.md R52). -/

@[simp] theorem encoded_params (a : Addr64) (p : List Byte) (s : State) : (encoded a p s).params = s.params := by
  unfold encoded; split_ifs <;> simp
@[simp] theorem encoded_phase (a : Addr64) (p : List Byte) (s : State) : (encoded a p s).phase = s.phase := by
  unfold encoded; split_ifs <;> simp
@[simp] theorem encoded_dlen (a : Addr64) (p : List Byte) (s : State) : (encoded a p s).dlen = s.dlen := by
  unfold encoded; split_ifs <;> simp
@[simp] theorem encoded_count (a : Addr64) (p : List Byte) (s : State) : (encoded a p s).count = s.count := by
  unfold encoded; split_ifs <;> simp
@[simp] theorem encoded_buf (a : Addr64) (p : List Byte) (s : State) : (encoded a p s).buf = s.buf := by
  unfold encoded; split_ifs <;> simp
@[simp] theorem encoded_source (a : Addr64) (p : List Byte) (s : State) : (encoded a p s).source = s.source := by
  unfold encoded; split_ifs <;> simp
@[simp] theorem encoded_turns (a : Addr64) (p : List Byte) (s : State) : (encoded a p s).turns = s.turns := by
  unfold encoded; split_ifs <;> simp

/-- A transition row, where the table gives it the byte, does what STEP does with that byte. -/
theorem exec_row {s : State} {b : Byte} {i : Instr} (h : RowApplies s b i) : exec i s = .next (stepped b s) := by
  cases i with
  | rxStart => obtain ⟨hp, rfl⟩ := h; rw [stepped_start hp]; exact if_pos hp
  | rxIgnore c => obtain ⟨rfl, hp, hb⟩ := h; rw [stepped_ignore hp hb]; exact if_pos ⟨hp, hb⟩
  | rxLenHi c => obtain ⟨rfl, hp⟩ := h; rw [stepped_high c hp]; exact if_pos hp
  | rxLenLo c =>
    obtain ⟨rfl, hp⟩ := h
    refine (execRxLenLo_eq hp c).trans ?_
    split_ifs with hl
    · rw [stepped_low_discard hp hl]
    · rw [stepped_low_accept hp hl]
  | rxBody c => obtain ⟨rfl, hp, hc⟩ := h; rw [stepped_body c hp hc.1 hc.2]; exact if_pos ⟨hp, s.bodyRow_iff.mpr hc⟩
  | rxComplete c =>
    obtain ⟨rfl, hC⟩ := h
    refine (execRxComplete_eq hC.1 hC.2.1 hC.2.2 c).trans ?_
    split_ifs with hv
    · rw [stepped_dispatch hC hv]
    · rw [stepped_mismatch hC hv]
  | rxForcedReset c => obtain ⟨rfl, hp, hf⟩ := h; rw [stepped_forced c hp hf]; exact if_pos ⟨hp, s.forcedRow_iff.mpr hf⟩
  | step _ => exact h.elim
  | encode _ _ => exact h.elim
  | reset => exact h.elim
  | ftRxpkt => exact h.elim
  | ftTxstat => exact h.elim
  | ftTxreq => exact h.elim
  | ftUnknown _ => exact h.elim

/-- A frame-type row, where the completed frame is its own, does what DISPATCH does. -/
theorem exec_arm {s : State} {i : Instr} (h : ArmApplies s i) : exec i s = .next (dispatched s) := by
  cases i with
  | ftRxpkt => refine (execFtRxpkt_next h).trans ?_; simp only [dispatched, if_pos h.2]
  | ftTxstat =>
    refine (execFtTxstat_next h).trans ?_
    simp only [dispatched, h.2, if_neg (show ¬ (0x8B : Byte) = 0x90 by decide), if_true]
  | ftTxreq =>
    refine (execFtTxreq_next h).trans ?_
    simp only [dispatched, h.2, if_neg (show ¬ (0x10 : Byte) = 0x90 by decide),
      if_neg (show ¬ (0x10 : Byte) = 0x8B by decide)]
  | ftUnknown t =>
    refine (execFtUnknown_next h).trans ?_
    simp only [dispatched, h.2.1, if_neg h.2.2.1, if_neg h.2.2.2]
  | step _ => exact h.elim
  | encode _ _ => exact h.elim
  | reset => exact h.elim
  | rxStart => exact h.elim
  | rxIgnore _ => exact h.elim
  | rxLenHi _ => exact h.elim
  | rxLenLo _ => exact h.elim
  | rxBody _ => exact h.elim
  | rxComplete _ => exact h.elim
  | rxForcedReset _ => exact h.elim

/-- A transition row that answers a next state is one the table gives a byte to. -/
theorem row_of_next {s t : State} {i : Instr} (h : exec i s = .next t)
    (hi : i = .rxStart ∨ ∃ c, i = .rxIgnore c ∨ i = .rxLenHi c ∨ i = .rxLenLo c ∨ i = .rxBody c ∨ i = .rxComplete c ∨
      i = .rxForcedReset c) : ∃ b, RowApplies s b i := by
  rcases hi with rfl | ⟨c, rfl | rfl | rfl | rfl | rfl | rfl⟩ <;> by_contra hn
  · exact absurd ((if_neg fun hp => hn ⟨0x7E, hp, rfl⟩).symm.trans h) (by simp)
  · exact absurd ((if_neg fun hp => hn ⟨c, rfl, hp⟩).symm.trans h) (by simp)
  · exact absurd ((if_neg fun hp => hn ⟨c, rfl, hp⟩).symm.trans h) (by simp)
  · exact absurd ((if_neg fun hp => hn ⟨c, rfl, hp⟩).symm.trans h) (by simp)
  · exact absurd ((if_neg fun hp => hn ⟨c, rfl, hp.1, s.bodyRow_iff.mp hp.2⟩).symm.trans h) (by simp)
  · exact absurd ((if_neg fun hp => hn ⟨c, rfl, hp.1, s.completeRow_iff.mp hp.2⟩).symm.trans h) (by simp)
  · exact absurd ((if_neg fun hp => hn ⟨c, rfl, hp.1, s.forcedRow_iff.mp hp.2⟩).symm.trans h) (by simp)

/-- A frame-type row that answers a next state is that of the completed frame. -/
theorem arm_of_next {s t : State} {i : Instr} (h : exec i s = .next t)
    (hi : i = .ftRxpkt ∨ i = .ftTxstat ∨ i = .ftTxreq ∨ ∃ c, i = .ftUnknown c) : ArmApplies s i := by
  rcases hi with rfl | rfl | rfl | ⟨c, rfl⟩ <;> by_contra hn
  · exact absurd ((execFtRxpkt_refused hn).symm.trans h) (by simp)
  · exact absurd ((execFtTxstat_refused hn).symm.trans h) (by simp)
  · exact absurd ((execFtTxreq_refused hn).symm.trans h) (by simp)
  · exact absurd ((execFtUnknown_refused hn).symm.trans h) (by simp)

/-- Everything an instruction can do when it answers a next state: it does what STEP does with a byte, or is ENCODE, or is
RESET, or does what DISPATCH does. -/
theorem exec_next_cases {i : Instr} {s t : State} (h : exec i s = .next t) :
    (∃ b, t = stepped b s ∧ (i = .step b ∨ RowApplies s b i)) ∨
    (∃ a p, i = .encode a p ∧ t = encoded a p s) ∨
    (i = .reset ∧ t = ((s.clearOutputs.setPhase .awaitingStart).setDlen 0).setCount 0) ∨
    (ArmApplies s i ∧ t = dispatched s) := by
  have row (hr : ∃ b, RowApplies s b i) : ∃ b, t = stepped b s ∧ (i = .step b ∨ RowApplies s b i) := by
    obtain ⟨b, hb⟩ := hr
    have := (exec_row hb).symm.trans h
    injection this with this
    exact ⟨b, this.symm, .inr hb⟩
  have arm (ha : ArmApplies s i) : ArmApplies s i ∧ t = dispatched s := by
    have := (exec_arm ha).symm.trans h
    injection this with this
    exact ⟨ha, this.symm⟩
  cases i with
  | step b => rw [exec_step] at h; injection h with h; exact .inl ⟨b, h.symm, .inl rfl⟩
  | encode a p => rw [exec_encode] at h; injection h with h; exact .inr (.inl ⟨a, p, rfl, h.symm⟩)
  | reset => rw [exec_reset] at h; injection h with h; exact .inr (.inr (.inl ⟨rfl, h.symm⟩))
  | rxStart => exact .inl (row (row_of_next h (by simp)))
  | rxIgnore c => exact .inl (row (row_of_next h (by simp)))
  | rxLenHi c => exact .inl (row (row_of_next h (by simp)))
  | rxLenLo c => exact .inl (row (row_of_next h (by simp)))
  | rxBody c => exact .inl (row (row_of_next h (by simp)))
  | rxComplete c => exact .inl (row (row_of_next h (by simp)))
  | rxForcedReset c => exact .inl (row (row_of_next h (by simp)))
  | ftRxpkt => exact .inr (.inr (.inr (arm (arm_of_next h (by simp)))))
  | ftTxstat => exact .inr (.inr (.inr (arm (arm_of_next h (by simp)))))
  | ftTxreq => exact .inr (.inr (.inr (arm (arm_of_next h (by simp)))))
  | ftUnknown c => exact .inr (.inr (.inr (arm (arm_of_next h (by simp)))))

/-- Taking the next transaction changes nothing but the schedule and the source. -/
theorem nextCommand_frame (s : State) :
    (nextCommand s).2 = { s with source := (nextCommand s).2.source, turns := (nextCommand s).2.turns } := by
  unfold nextCommand
  split <;> (try split) <;> rfl

/-- Everything a step of a legally built block can do: with `u` the state that has the next transaction taken off, it is a
STEP, an ENCODE, a RESET or an idle turn in `u`, or the refusal of the reserved selector. -/
theorem step_cases (s : State) (hl : s.params.Legal) :
    ∃ u : State, u = { s with source := u.source, turns := u.turns } ∧
      ((∃ b, step s = .next (stepped b u)) ∨ (∃ a p, step s = .next (encoded a p u)) ∨
        step s = .next (((u.clearOutputs.setPhase .awaitingStart).setDlen 0).setCount 0) ∨
        step s = .next u.clearOutputs ∨ step s = .refused .reservedSelector) := by
  refine ⟨(nextCommand s).2, nextCommand_frame s, ?_⟩
  simp only [step, if_pos hl]
  rcases nextCommand s with ⟨_ | c, u⟩
  · exact .inr (.inr (.inr (.inl rfl)))
  · dsimp only
    unfold decodeCommand
    split_ifs
    · exact .inl ⟨_, exec_step _ _⟩
    · exact .inr (.inl ⟨_, _, exec_encode _ _ _⟩)
    · exact .inr (.inr (.inl (exec_reset _)))
    · exact .inr (.inr (.inr (.inr rfl)))

/-- A property that every step keeps holds after any run that starts with it. -/
theorem run_keeps {P : State → Prop} (keeps : ∀ s t, P s → step s = .next t → P t) {n : Nat} {s t : State} (hs : P s)
    (hr : core.run n s = .next t) : P t := by
  induction n generalizing s with
  | zero => injection hr with hr; subst hr; exact hs
  | succ k ih =>
    simp only [Host.Core.run] at hr
    split at hr
    · rename_i u hu; exact ih (keeps s u hs hu) hr
    · cases hr
    · cases hr

/-- The storage withFetchWord lays a frame out in has the canonical form. -/
theorem zeroBody_wf (t : Byte) (n : Nat) : (zeroBody t n).wf := by
  have : (zeroBody t n).map Prod.fst = List.range n := by simp [zeroBody, Function.comp_def]
  rw [Memory.wf, this]
  exact List.pairwise_lt_range

end Sys2Proof.Machine
end

