-- ==== Sys2Proof/Tests/Slice0.lean ====
section
/-! SUPPORT. The model's own tests. Expected results come from the spec: the rules' examples and the vectors of
95_test_vectors.md (V-…), words written out from 30_encoding.md. The last part shows, for every statement with hypotheses, a
state and operands that meet them. -/

namespace Sys2Proof.Tests

open Sys2Proof Sys2Proof.Machine

/-- A small state: phase, dlen, count and the first buffer bytes. -/
def at_ (p : Phase) (d : Len16) (n : Nat) (bs : List Byte) : State :=
  { State.reset with phase := p, dlen := d, count := n, buf := bs.zipIdx.map fun x => (x.2, x.1) }

/-- One instruction gives a next state with this property. -/
def gives (i : Instr) (s : State) (P : State → Bool) : Bool :=
  match exec i s with
  | .next t => P t
  | .fault _ => false
  | .refused _ => false

/-- One step from reset with a table word placed gives a next state with this property. -/
def fetched (nbits w : Nat) (P : State → Bool) : Bool :=
  match step (State.reset.withFetchWord nbits w) with
  | .next t => P t
  | .fault _ => false
  | .refused _ => false

/-- The registers as 95_test_vectors.md writes them. -/
def regs (t : State) : Phase × Len16 × Nat := (t.phase, t.dlen, t.count)

/-- V-S3's body: a transmit-status frame with status 0. -/
def statusBody : List Byte := [0x8B, 0x01, 0xFF, 0xFE, 0x00, 0x00, 0x00]

/-- V-S2's body: a receive packet with payload "ok". -/
def packetBody : List Byte :=
  [0x90, 0x00, 0x13, 0xA2, 0x00, 0x42, 0x49, 0x74, 0xA1, 0xFF, 0xFE, 0x01, 0x6F, 0x6B]

/-! ### WellFormed refuses an ill-formed term of each check -/

theorem test_wf_ignore_marker : Instr.wellFormed (.rxIgnore 0x7E) = false := by decide
theorem test_wf_unknown_rxpkt : Instr.wellFormed (.ftUnknown 0x90) = false := by decide
theorem test_wf_unknown_txstat : Instr.wellFormed (.ftUnknown 0x8B) = false := by decide
theorem test_wf_unknown_txreq : Instr.wellFormed (.ftUnknown 0x10) = false := by decide
theorem test_wf_good : (Instr.rxIgnore 0x7F).wellFormed ∧ (Instr.ftUnknown 0x88).wellFormed := by decide

/-! ### Every constructor's decoding, from words written out from 30_encoding.md R66, R67, R76 and the opcode table -/

theorem test_decode_step : decode tableContext (.command ⟨0b00, 0x55, 0, []⟩) = .ok (.step 0x55) := by decide
theorem test_decode_encode : decode tableContext (.command ⟨0b01, 0, 0x0013A200424974A1, [0x74]⟩) =
    .ok (.encode 0x0013A200424974A1 [0x74]) := by decide
theorem test_decode_reset : decode tableContext (.command ⟨0b10, 0, 0, []⟩) = .ok .reset := by decide
theorem test_decode_reserved : decode tableContext (.command ⟨0b11, 0, 0, []⟩) = .error .reservedSelector := by decide
theorem test_decode_rxStart : decode tableContext (.transition 0b0001111110) = .ok .rxStart := by decide
theorem test_decode_rxIgnore : decode tableContext (.transition 0b0011111111) = .ok (.rxIgnore 0xFF) := by decide
theorem test_decode_rxLenHi : decode tableContext (.transition 0b0100000001) = .ok (.rxLenHi 0x01) := by decide
theorem test_decode_rxLenLo : decode tableContext (.transition 0b1000001110) = .ok (.rxLenLo 0x0E) := by decide
theorem test_decode_rxBody : decode ⟨128, 6, 7⟩ (.transition 0b1110001011) = .ok (.rxBody 0x8B) := by decide
theorem test_decode_rxComplete : decode ⟨128, 7, 7⟩ (.transition 0b1101110110) = .ok (.rxComplete 0x76) := by decide
theorem test_decode_rxForcedReset :
    decode ⟨128, 8, 7⟩ (.transition 0b1101010101) = .ok (.rxForcedReset 0x55) := by decide
theorem test_decode_ftRxpkt : decode tableContext (.frameType 0b10010000) = .ok .ftRxpkt := by decide
theorem test_decode_ftTxstat : decode tableContext (.frameType 0b10001011) = .ok .ftTxstat := by decide
theorem test_decode_ftTxreq : decode tableContext (.frameType 0b00010000) = .ok .ftTxreq := by decide
theorem test_decode_ftUnknown : decode tableContext (.frameType 0b10001000) = .ok (.ftUnknown 0x88) := by decide
theorem test_encode_words : encode .rxStart = .transition 0x07E ∧ encode (.rxLenHi 0xAB) = .transition 0x1AB ∧
    encode (.rxLenLo 0xCD) = .transition 0x2CD ∧ encode (.rxBody 0x12) = .transition 0x312 ∧
    encode .ftTxstat = .frameType 0x8B := by decide

/-! ### Table words: decoded alone, and run as the first operation after reset -/

theorem test_table_commands : decodeTableWord 8 0 = some (.step 0) ∧ decodeTableWord 8 1 = some (.encode 0 []) ∧
    decodeTableWord 8 2 = some .reset ∧ decodeTableWord 8 3 = none := by decide
theorem test_table_transitions : decodeTableWord 16 0x07E = some .rxStart ∧ decodeTableWord 16 0x000 = some (.rxIgnore 0) ∧
    decodeTableWord 16 0x100 = some (.rxLenHi 0) ∧ decodeTableWord 16 0x200 = some (.rxLenLo 0) ∧
    decodeTableWord 16 0x300 = some (.rxBody 0) ∧ decodeTableWord 16 0x400 = none := by decide
theorem test_table_frame_types : decodeTableWord 8 0x90 = some .ftRxpkt ∧ decodeTableWord 8 0x8B = some .ftTxstat ∧
    decodeTableWord 8 0x10 = some .ftTxreq ∧ decodeTableWord 0 0 = some (.ftUnknown 0) := by decide
theorem test_fetch_step : fetched 8 0 fun t => regs t == (.awaitingStart, 0, 0) && t.turns == [] := by decide
theorem test_fetch_encode : fetched 8 1 fun t => t.sink.length == 1 := by decide
theorem test_fetch_reset : fetched 8 2 fun t => regs t == (.awaitingStart, 0, 0) := by decide
theorem test_fetch_rxStart : fetched 16 0x07E fun t => regs t == (.awaitingLengthHigh, 0, 0) := by decide
theorem test_fetch_rxLenHi : fetched 16 0x1AB fun t => regs t == (.awaitingLengthLow, 0xAB00, 0) := by decide
theorem test_fetch_rxLenLo : fetched 16 0x20C fun t => regs t == (.accumulatingBody, 0x0C, 0) := by decide
theorem test_fetch_rxBody : fetched 16 0x355 fun t => regs t == (.accumulatingBody, 7, 1) && t.bufRead 0 == 0x55 := by
  decide
theorem test_fetch_ftRxpkt : fetched 8 0x90 fun t => t.frameOut == some (.receivedData []) := by decide
theorem test_fetch_ftTxstat : fetched 8 0x8B fun t => t.frameOut == some (.transmitStatus true) := by decide
theorem test_fetch_ftTxreq : fetched 8 0x10 fun t => t.rxReason == .unknownFrameType := by decide
theorem test_fetch_ftUnknown : fetched 0 0 fun t => t.rxReason == .unknownFrameType := by decide

/-! ### One step of each instruction -/

/-- R120's example. -/
theorem test_step_marker : gives (.step 0x7E) State.reset fun t => regs t == (.awaitingLengthHigh, 0, 0) := by decide
/-- V-D8. -/
theorem test_step_forced : gives (.step 0x55) (at_ .accumulatingBody 7 9 []) fun t =>
    regs t == (.awaitingStart, 7, 9) && t.rxReason == .invariantReset && t.buf == [] := by decide
/-- V-S1. -/
theorem test_encode_scenario : gives (.encode 0x0013A200424974A1 [0x74, 0x65, 0x73, 0x74]) State.reset fun t =>
    t.sink == [[0x7E, 0x00, 0x12, 0x10, 0x01, 0x00, 0x13, 0xA2, 0x00, 0x42, 0x49, 0x74, 0xA1, 0xFF, 0xFE, 0x00, 0x00,
      0x74, 0x65, 0x73, 0x74, 0xDC]] := by decide
/-- V-E3. -/
theorem test_encode_too_large : gives (.encode 0 (List.replicate 111 0)) State.reset fun t =>
    t.encResult == some (.err .payloadTooLarge) && t.sink == [] := by decide
/-- V-R2. -/
theorem test_reset : gives .reset (at_ .awaitingStart 0x12 19 []) fun t =>
    regs t == (.awaitingStart, 0, 0) && t.frameOut == none := by decide
/-- R121's example. -/
theorem test_rxStart : gives .rxStart (at_ .awaitingStart 0x12 19 [0x10]) fun t =>
    regs t == (.awaitingLengthHigh, 0, 0) && t.bufRead 0 == 0x10 := by decide
/-- R122's example. -/
theorem test_rxIgnore : gives (.rxIgnore 0x00) (at_ .awaitingStart 0x12 19 []) fun t =>
    regs t == (.awaitingStart, 0x12, 19) := by decide
/-- R123's example. -/
theorem test_rxLenHi : gives (.rxLenHi 0x01) (at_ .awaitingLengthHigh 0 0 []) fun t =>
    regs t == (.awaitingLengthLow, 0x0100, 0) := by decide
/-- V-D3d. -/
theorem test_rxLenLo_accept : gives (.rxLenLo 0x7F) (at_ .awaitingLengthLow 0 0 []) fun t =>
    regs t == (.accumulatingBody, 0x7F, 0) := by decide
/-- V-D3c. -/
theorem test_rxLenLo_discard : gives (.rxLenLo 0x80) (at_ .awaitingLengthLow 0 0 []) fun t =>
    regs t == (.awaitingStart, 0x80, 0) && t.rxReason == .malformedLength := by decide
/-- R125's example. -/
theorem test_rxBody : gives (.rxBody 0x8B) (at_ .accumulatingBody 7 0 []) fun t =>
    regs t == (.accumulatingBody, 7, 1) && t.bufRead 0 == 0x8B := by decide
/-- V-S2. -/
theorem test_rxComplete_packet : gives (.rxComplete 0x42) (at_ .accumulatingBody 14 14 packetBody) fun t =>
    regs t == (.awaitingStart, 14, 15) && t.frameOut == some (.receivedData [0x6F, 0x6B]) &&
      t.rxData == some [0x6F, 0x6B] && t.txStatus == none := by decide
/-- V-D6. -/
theorem test_rxComplete_mismatch : gives (.rxComplete 0x77) (at_ .accumulatingBody 7 7 statusBody) fun t =>
    regs t == (.awaitingStart, 7, 8) && t.frameOut == none && t.rxReason == .checksumMismatch := by decide
/-- R128: the buffer index at the capacity. -/
theorem test_rxForcedReset : gives (.rxForcedReset 0x55) (at_ .accumulatingBody 200 128 []) fun t =>
    regs t == (.awaitingStart, 200, 128) && t.rxReason == .invariantReset := by decide
/-- V-X1. -/
theorem test_ftRxpkt_empty : gives .ftRxpkt (at_ .awaitingStart 12 13 (packetBody.take 12 ++ [0x1C])) fun t =>
    t.frameOut == some (.receivedData []) := by decide
/-- V-X2. -/
theorem test_ftRxpkt_short : gives .ftRxpkt (at_ .awaitingStart 11 12 (packetBody.take 11 ++ [0x1D])) fun t =>
    t.frameOut == none && t.rxReason == .malformedShortBody := by decide
/-- V-X4. -/
theorem test_ftTxstat_long : gives .ftTxstat
    (at_ .awaitingStart 8 9 [0x8B, 0x01, 0xFF, 0xFE, 0x02, 0x00, 0x00, 0x99, 0xDB]) fun t =>
    t.frameOut == some (.transmitStatus true) && t.txStatus == some true && t.rxData == none := by decide
/-- V-X5. -/
theorem test_ftTxstat_failure : gives .ftTxstat
    (at_ .awaitingStart 7 8 [0x8B, 0x07, 0x12, 0x34, 0x00, 0x24, 0x02, 0x01]) fun t =>
    t.frameOut == some (.transmitStatus false) := by decide
/-- V-D9, in a short frame of type 0x10. -/
theorem test_ftTxreq : gives .ftTxreq (at_ .awaitingStart 7 8 [0x10, 0, 0, 0, 0, 0, 0, 0xEF]) fun t =>
    t.frameOut == none && t.rxReason == .unknownFrameType := by decide
/-- V-D10. -/
theorem test_ftUnknown : gives (.ftUnknown 0x88)
    (at_ .awaitingStart 7 8 [0x88, 0x01, 0x41, 0x50, 0x00, 0x00, 0x00, 0xE5]) fun t =>
    t.frameOut == none && t.rxReason == .unknownFrameType := by decide

/-! ### Witnesses: states and operands that meet the hypotheses of the statements -/

/-- Alike for the statements about `step`: a command turn, a poll turn with and without a byte, and no turn. -/
def withTurns (ts : List Turn) (bs : List Byte) : State := State.powerOn Config.defaultParams bs ts

theorem witness_StepRunsTheDecodedCommand :
    (withTurns [.command ⟨0b10, 0, 0, []⟩] []).params.Legal ∧
    (withTurns [.command ⟨0b10, 0, 0, []⟩] []).turns = .command ⟨0b10, 0, 0, []⟩ :: [] ∧
    decode (withTurns [.command ⟨0b10, 0, 0, []⟩] []).rxContext (.command ⟨0b10, 0, 0, []⟩) = .ok .reset := by decide
theorem witness_ReservedSelectorIsRefused : (withTurns [.command ⟨0b11, 0, 0, []⟩] []).params.Legal ∧
    (withTurns [.command ⟨0b11, 0, 0, []⟩] []).turns = .command ⟨0b11, 0, 0, []⟩ :: [] ∧
    (⟨0b11, 0, 0, []⟩ : CmdWord).sel = 0b11 := by decide
theorem witness_PollPresentsTheNextByteOnce : (withTurns [.poll] [0x7E]).params.Legal ∧
    (withTurns [.poll] [0x7E]).turns = [.poll] ∧ (withTurns [.poll] [0x7E]).source = [0x7E] ∧
    (withTurns [.poll] []).params.Legal ∧ (withTurns [.poll] []).turns = [.poll] ∧ (withTurns [.poll] []).source = [] := by
  decide
theorem witness_IdleKeepsDecoderState : (withTurns [] []).params.Legal ∧ (withTurns [] []).turns = [] := by decide
theorem witness_OnlyTheReservedSelectorStops : State.reset.params.Legal := by decide
theorem witness_IllegalParametersAreRefused : ¬ (State.powerOn ⟨128, 128, 0⟩ [] []).params.Legal := by decide

theorem witness_DecodeOfEncodeIsTheInstruction : (Instr.rxForcedReset 0x55).wellFormed ∧
    (⟨128, 128, 200⟩ : RxContext).admits (.rxForcedReset 0x55) ∧ (⟨128, 6, 7⟩ : RxContext).admits (.rxBody 1) ∧
    (⟨128, 7, 7⟩ : RxContext).admits (.rxComplete 1) := by decide
theorem witness_DecodedWordEncodesBack : decode ⟨128, 7, 7⟩ (.transition 0x376) = .ok (.rxComplete 0x76) ∧
    decode ⟨128, 7, 7⟩ (.command ⟨0, 1, 2, [3]⟩) = .ok (.step 1) ∧
    decode ⟨128, 7, 7⟩ (.frameType 0x10) = .ok .ftTxreq := by decide
theorem witness_RowsOutOfPlaceAreRefused :
    RowApplies (at_ .accumulatingBody 7 0 []) 0x01 (.rxBody 0x01) ∧ (∀ b, ¬ RowApplies State.reset b (.rxBody 0x01)) ∧
    ArmApplies (at_ .awaitingStart 12 13 (packetBody.take 12 ++ [0x1C])) .ftRxpkt ∧ ¬ ArmApplies State.reset .ftRxpkt :=
  ⟨⟨rfl, rfl, by decide, by decide⟩, fun _ h => absurd h.2.1 (by decide),
    ⟨⟨rfl, by decide, by decide⟩, by decide⟩, fun h => absurd h.1.1 (by decide)⟩

theorem witness_RxStartOpensAFrame : State.reset.phase = .awaitingStart := rfl
theorem witness_RxIgnoreChangesNothing : State.reset.phase = .awaitingStart ∧ (0x7F : Byte) ≠ 0x7E := by decide
theorem witness_RxLenHiTakesTheHighByte : (at_ .awaitingLengthHigh 0 0 []).phase = .awaitingLengthHigh := rfl
/-- Each side of both bounds of the length test: 6 and 7, 127 and 128. -/
theorem witness_RxLenLoAcceptsOrDiscards :
    (at_ .awaitingLengthLow 0 0 []).phase = .awaitingLengthLow ∧
    gives (.rxLenLo 6) (at_ .awaitingLengthLow 0 0 []) (fun t => t.dlen == 6 && t.rxReason == .malformedLength) ∧
    gives (.rxLenLo 7) (at_ .awaitingLengthLow 0 0 []) (fun t => t.dlen == 7 && t.phase == .accumulatingBody) ∧
    gives (.rxLenLo 127) (at_ .awaitingLengthLow 0 0 []) (fun t => t.dlen == 127 && t.phase == .accumulatingBody) ∧
    gives (.rxLenLo 128) (at_ .awaitingLengthLow 0 0 []) (fun t => t.dlen == 128 && t.rxReason == .malformedLength) := by
  decide
theorem witness_RxBodyAppendsTheByte : (at_ .accumulatingBody 7 6 []).phase = .accumulatingBody ∧
    (at_ .accumulatingBody 7 6 []).count + 1 < (at_ .accumulatingBody 7 6 []).dlen.toNat + 1 ∧
    (at_ .accumulatingBody 7 6 []).count < (at_ .accumulatingBody 7 6 []).params.rxBufCap := by decide
/-- Both outcomes of the validation, one checksum apart. -/
theorem witness_RxCompleteValidatesThenDispatches : Completing (at_ .accumulatingBody 7 7 statusBody) ∧
    (sum8 ((at_ .accumulatingBody 7 7 statusBody).bufSlice 0 7) + (0x76 : Byte).toNat) % 256 = 0xFF ∧
    (sum8 ((at_ .accumulatingBody 7 7 statusBody).bufSlice 0 7) + (0x77 : Byte).toNat) % 256 ≠ 0xFF :=
  ⟨⟨rfl, rfl, by decide⟩, by decide, by decide⟩
/-- Each half of the condition: count one above dlen, count at the capacity. -/
theorem witness_RxForcedResetAbandonsTheFrame : (at_ .accumulatingBody 7 8 []).count > 7 ∧
    (at_ .accumulatingBody 200 128 []).count ≥ (at_ .accumulatingBody 200 128 []).params.rxBufCap ∧
    (at_ .accumulatingBody 7 8 []).phase = .accumulatingBody ∧
    (at_ .accumulatingBody 200 128 []).phase = .accumulatingBody := by decide

/-- Both sides of the header length: 11 and 12. -/
theorem witness_ReceivePacketArm :
    ArmApplies (at_ .awaitingStart 11 12 (packetBody.take 11 ++ [0x1D])) .ftRxpkt ∧
    ArmApplies (at_ .awaitingStart 12 13 (packetBody.take 12 ++ [0x1C])) .ftRxpkt :=
  ⟨⟨⟨rfl, by decide, by decide⟩, by decide⟩, ⟨⟨rfl, by decide, by decide⟩, by decide⟩⟩
/-- Both sides of the status layout: 6 and 7. -/
theorem witness_TransmitStatusArm : ArmApplies (at_ .awaitingStart 6 7 [0x8B, 0, 0, 0, 0, 0, 0x74]) .ftTxstat ∧
    ArmApplies (at_ .awaitingStart 7 8 (statusBody ++ [0x76])) .ftTxstat :=
  ⟨⟨⟨rfl, by decide, by decide⟩, by decide⟩, ⟨⟨rfl, by decide, by decide⟩, by decide⟩⟩
theorem witness_UnknownTypesAreDiscarded :
    ArmApplies (at_ .awaitingStart 7 8 [0x10, 0, 0, 0, 0, 0, 0, 0xEF]) .ftTxreq ∧
    ArmApplies (at_ .awaitingStart 7 8 [0x88, 0x01, 0x41, 0x50, 0, 0, 0, 0xE5]) (.ftUnknown 0x88) :=
  ⟨⟨⟨rfl, by decide, by decide⟩, by decide⟩, ⟨⟨rfl, by decide, by decide⟩, by decide, by decide, by decide⟩⟩
theorem witness_DispatchRunsTheArmOfTheType : HoldsValidFrame (at_ .awaitingStart 7 8 (statusBody ++ [0x76])) :=
  ⟨rfl, by decide, by decide⟩

/-- One STEP for each of the five reasons, and so for EveryDiscardReturnsToAwaitingStart. -/
theorem witness_ReasonsFollowTheTaxonomy :
    gives (.step 6) (at_ .awaitingLengthLow 0 0 []) (fun t => t.rxReason == .malformedLength) ∧
    gives (.step 0x77) (at_ .accumulatingBody 7 7 statusBody) (fun t => t.rxReason == .checksumMismatch) ∧
    gives (.step 0xE5) (at_ .accumulatingBody 7 7 [0x88, 0x01, 0x41, 0x50, 0, 0, 0])
      (fun t => t.rxReason == .unknownFrameType) ∧
    gives (.step 0x1D) (at_ .accumulatingBody 11 11 (packetBody.take 11)) (fun t => t.rxReason == .malformedShortBody) ∧
    gives (.step 0) (at_ .accumulatingBody 7 8 []) (fun t => t.rxReason == .invariantReset) := by decide
theorem witness_EveryDiscardReturnsToAwaitingStart :
    ∃ t, exec (.step 6) (at_ .awaitingLengthLow 0 0 []) = .next t ∧ t.rxReason ≠ .none := ⟨_, rfl, by decide⟩
/-- Both kinds of frame, by STEP, by RX_COMPLETE and by the arms. -/
theorem witness_FrameOnlyAfterAValidChecksum :
    gives (.rxComplete 0x76) (at_ .accumulatingBody 7 7 statusBody)
      (fun t => t.frameOut == some (.transmitStatus true)) ∧
    gives .ftRxpkt (at_ .awaitingStart 12 13 (packetBody.take 12 ++ [0x1C]))
      (fun t => t.frameOut == some (.receivedData [])) ∧
    gives .ftTxstat (at_ .awaitingStart 7 8 (statusBody ++ [0x76])) (fun t => t.frameOut == some (.transmitStatus true)) ∧
    gives (.step 0x42) (at_ .accumulatingBody 14 14 packetBody)
      (fun t => t.frameOut == some (.receivedData [0x6F, 0x6B])) ∧
    gives (.step 0x76) (at_ .accumulatingBody 7 7 statusBody) (fun t => t.frameOut == some (.transmitStatus true)) := by
  decide
theorem witness_EachFrameGoesToOneHandlerChannel :
    ∃ t, exec (.step 0x76) (at_ .accumulatingBody 7 7 statusBody) = .next t ∧
      t.frameOut = some (.transmitStatus true) := ⟨_, exec_step _ _, by decide⟩
theorem witness_DeliveredPayloadIsBounded :
    ∃ t, exec (.step 0x42) (at_ .accumulatingBody 14 14 packetBody) = .next t ∧
      t.frameOut = some (.receivedData [0x6F, 0x6B]) := ⟨_, exec_step _ _, by decide⟩
/-- The flag set in each of the three phases, and clear after a STEP that stays in AwaitingStart or returns to it. -/
theorem witness_PhaseGraphOfStep :
    gives (.step 0x7E) State.reset (fun t => t.phase == .awaitingLengthHigh && t.parsingInProgress) ∧
    gives (.step 0) (at_ .awaitingLengthHigh 0 0 []) (fun t => t.phase == .awaitingLengthLow && t.parsingInProgress) ∧
    gives (.step 7) (at_ .awaitingLengthLow 0 0 []) (fun t => t.phase == .accumulatingBody && t.parsingInProgress) ∧
    gives (.step 0x7F) State.reset (fun t => t.phase == .awaitingStart && !t.parsingInProgress) ∧
    gives (.step 0x76) (at_ .accumulatingBody 7 7 statusBody)
      (fun t => t.phase == .awaitingStart && !t.parsingInProgress) := by decide

/-- Both sides of the size bound: 110 and 111 bytes. -/
theorem witness_EncodeSizeCheckAndHandOff :
    (∃ t, exec (.encode 0 (List.replicate 110 0)) State.reset = .next t) ∧
    (List.replicate 110 (0 : Byte)).length + 18 ≤ State.reset.params.txMaxFrame ∧
    (∃ t, exec (.encode 0 (List.replicate 111 0)) State.reset = .next t) ∧
    (List.replicate 111 (0 : Byte)).length + 18 > State.reset.params.txMaxFrame :=
  ⟨⟨_, exec_encode _ _ _⟩, by decide, ⟨_, exec_encode _ _ _⟩, by decide⟩
theorem witness_EncodedFrameIsConsistent : State.reset.params.Legal ∧ ∃ t f,
    exec (.encode 0 []) State.reset = .next t ∧ t.encResult = some (.ok f) :=
  ⟨by decide, _, _, exec_encode _ _ _, rfl⟩

/-- The frame statements, for a storing row, a row that stores nothing, a STEP of a byte that is not the start marker, the STEP
of the start marker, and an arm. -/
theorem witness_WhatEachInstructionLeavesAlone : (∃ t, exec (.rxBody 1) (at_ .accumulatingBody 7 0 []) = .next t) ∧
    (∃ t, exec (.rxLenLo 7) (at_ .awaitingLengthLow 0 0 []) = .next t) ∧
    (∃ t, exec (.step 0x7F) State.reset = .next t) ∧ (∃ t, exec (.step 0x7E) State.reset = .next t) ∧
    (∃ t, exec .ftTxstat (at_ .awaitingStart 7 8 (statusBody ++ [0x76])) = .next t) :=
  ⟨⟨_, exec_row (b := 1) ⟨rfl, rfl, by decide, by decide⟩⟩, ⟨_, exec_row (b := 7) ⟨rfl, rfl⟩⟩,
    ⟨_, exec_step _ _⟩, ⟨_, exec_step _ _⟩, ⟨_, exec_arm witness_TransmitStatusArm.2⟩⟩
theorem witness_OnlyTheByteAtCountIsWritten : storedIndex (at_ .accumulatingBody 7 3 []) (.rxBody 1) ≠ some 4 ∧
    storedIndex (at_ .accumulatingBody 7 3 []) (.step 1) = some 3 ∧ storedIndex State.reset (.step 1) = none := by decide

/-- A state of the invariant in the body of a frame. -/
theorem partial_inv : (at_ .accumulatingBody 7 2 [0x8B, 0x01]).Inv :=
  ⟨by decide, by decide, by decide, by decide, by decide, by decide, by decide, by decide, by decide⟩

theorem witness_PowerOnMeetsTheInvariant : Config.defaultParams.Legal ∧ (⟨65539, 65536, 12⟩ : Config.Params).Legal ∧
    (⟨18, 2, 1⟩ : Config.Params).Legal := by decide
theorem witness_EveryStepKeepsTheInvariant : (withTurns [.poll] [0x7E]).Inv ∧
    ∃ t, step (withTurns [.poll] [0x7E]) = .next t :=
  ⟨⟨by decide, by decide, by decide, by decide, by decide, by decide, by decide, by decide, by decide⟩, _, rfl⟩
theorem witness_ForcedResetIsUnreachable : Config.defaultParams.Legal ∧
    ∃ t, core.run 2 (State.powerOn Config.defaultParams [0x7E, 0x00] [.poll, .poll]) = .next t := ⟨by decide, _, rfl⟩
/-- Two states whose buffers differ at index 2 only, with two live bytes. -/
theorem witness_StaleBytesNeverReachAnOutput : DifferOnlyInStaleBytes (at_ .accumulatingBody 7 2 [0x8B, 0x01, 0x00])
    (at_ .accumulatingBody 7 2 [0x8B, 0x01, 0xFF]) := ⟨rfl, by decide⟩

theorem witness_NoiseIsIgnored : State.reset.phase = .awaitingStart ∧ ∀ b ∈ ([0x00, 0x55, 0xFF] : List Byte), b ≠ 0x7E := by
  decide
theorem witness_BodyBytesAreStoredAndCounted : (at_ .accumulatingBody 7 2 [0x8B, 0x01]).phase = .accumulatingBody ∧
    2 + ([0x7E, 0x7E, 0x00, 0x01, 0x02] : List Byte).length ≤ (at_ .accumulatingBody 7 2 [0x8B, 0x01]).dlen.toNat ∧
    (7 : Len16).toNat < Config.defaultParams.rxBufCap := by decide
theorem witness_DeclaredLengthAlwaysEndsTheFrame : (at_ .accumulatingBody 7 2 [0x8B, 0x01]).Inv ∧
    (at_ .accumulatingBody 7 2 [0x8B, 0x01]).phase = .accumulatingBody ∧
    (at_ .accumulatingBody 7 2 [0x8B, 0x01]).count + (List.replicate 6 (0x7E : Byte)).length =
      (at_ .accumulatingBody 7 2 [0x8B, 0x01]).dlen.toNat + 1 := ⟨partial_inv, rfl, by decide⟩
/-- The shortest and the longest body. -/
theorem witness_WholeFrameIsReceivedAtItsLastByte : State.reset.params.Legal ∧ State.reset.phase = .awaitingStart ∧
    State.reset.params.minLen ≤ statusBody.length ∧ statusBody.length + 1 ≤ State.reset.params.rxBufCap ∧
    State.reset.params.minLen ≤ (List.replicate 127 (0x90 : Byte)).length ∧
    (List.replicate 127 (0x90 : Byte)).length + 1 ≤ State.reset.params.rxBufCap := by
  rw [List.length_replicate]; decide
theorem witness_LoopbackIsDiscarded : State.reset.params.Legal ∧ State.reset.phase = .awaitingStart ∧ ([] : List Byte).length + 15 ≤ State.reset.params.rxBufCap ∧
    ∃ e f t, exec (.encode 0 []) State.reset = .next e ∧ e.encResult = some (.ok f) ∧ feed f e = .next t :=
  ⟨by decide, rfl, by decide, _, _, _, exec_encode _ _ _, rfl, feed_eq _ _⟩
/-- The first body bit, and the last bit of the checksum byte. -/
theorem witness_SingleBitFlipIsDiscarded : State.reset.params.Legal ∧ State.reset.phase = .awaitingStart ∧
    State.reset.params.minLen ≤ statusBody.length ∧ statusBody.length + 1 ≤ State.reset.params.rxBufCap ∧ 0 < 8 ∧ 7 < 8 ∧
    (statusBody ++ [BitVec.ofNat 8 (0xFF - sum8 statusBody)]).set 0 (0x8B ^^^ ((1 : Byte) <<< 0)) =
      [0x8A, 0x01, 0xFF, 0xFE, 0x00, 0x00, 0x00, 0x76] ∧
    (statusBody ++ [BitVec.ofNat 8 (0xFF - sum8 statusBody)]).set 7 (0x76 ^^^ ((1 : Byte) <<< 7)) =
      [0x8B, 0x01, 0xFF, 0xFE, 0x00, 0x00, 0x00, 0xF6] ∧
    (statusBody ++ [BitVec.ofNat 8 (0xFF - sum8 statusBody)])[0]? = some 0x8B ∧
    (statusBody ++ [BitVec.ofNat 8 (0xFF - sum8 statusBody)])[7]? = some 0x76 := by decide
theorem witness_ResetRescuesTheNextFrame : (at_ .accumulatingBody 7 2 [0x8B, 0x01]).params.Legal ∧
    (at_ .accumulatingBody 7 2 [0x8B, 0x01]).params.minLen ≤ statusBody.length ∧
    statusBody.length + 1 ≤ (at_ .accumulatingBody 7 2 [0x8B, 0x01]).params.rxBufCap := by decide
theorem witness_GapRescuesTheNextFrame : (at_ .accumulatingBody 7 2 [0x8B, 0x01]).Inv ∧
    (at_ .accumulatingBody 7 2 [0x8B, 0x01]).phase = .accumulatingBody ∧
    (at_ .accumulatingBody 7 2 [0x8B, 0x01]).count + (List.replicate 6 (0 : Byte)).length =
      (at_ .accumulatingBody 7 2 [0x8B, 0x01]).dlen.toNat + 1 ∧ (∀ b ∈ ([0x00] : List Byte), b ≠ 0x7E) ∧
    (at_ .accumulatingBody 7 2 [0x8B, 0x01]).params.minLen ≤ statusBody.length ∧
    statusBody.length + 1 ≤ (at_ .accumulatingBody 7 2 [0x8B, 0x01]).params.rxBufCap :=
  ⟨partial_inv, rfl, by decide, by decide, by decide, by decide⟩
theorem witness_LoopFeedsEveryByteInOrder : (withTurns [.poll, .poll] [0x7E, 0x00]).params.Legal ∧
    (withTurns [.poll, .poll] [0x7E, 0x00]).source = [0x7E, 0x00] ++ [] ∧
    (withTurns [.poll, .poll] [0x7E, 0x00]).turns = List.replicate 2 .poll ++ [] := by decide

end Sys2Proof.Tests
end

section
/-! PROOFS. The scope: the parameters a block may be built with (00_scope.md R6). -/

namespace Sys2Proof.Machine

open Sys2Proof

/-- Settles O11: a step tests the parameters before it looks at the schedule, so the state of the block and what is
scheduled play no part (93_implementation_defined.md U8, log 1). -/
theorem illegalParametersAreRefused : Obligations.IllegalParametersAreRefused := by
  unfold Obligations.IllegalParametersAreRefused
  intro s illegal
  rw [step, if_neg illegal]

end Sys2Proof.Machine
end

section
/-! PROOFS. The invariant of 10_state.md R26: it holds at power-on, every operation keeps it, and under it no STEP is a forced
reset. -/

namespace Sys2Proof.Machine

open Sys2Proof

/-- Everything a step can do when it answers a next state: the block is legally built, and with `u` the state that has the next
transaction taken off, it was a STEP, an ENCODE, a RESET or an idle turn in `u`. -/
theorem step_next_cases {s t : State} (ht : step s = .next t) :
    ∃ u : State, u = { s with source := u.source, turns := u.turns } ∧ s.params.Legal ∧
      ((∃ b, t = stepped b u) ∨ (∃ addr payload, t = encoded addr payload u) ∨
        t = ((u.clearOutputs.setPhase .awaitingStart).setDlen 0).setCount 0 ∨ t = u.clearOutputs) := by
  have legal : s.params.Legal := by
    by_contra illegal
    rw [step, if_neg illegal] at ht
    cases ht
  obtain ⟨u, hu, cases⟩ := step_cases s legal
  refine ⟨u, hu, legal, ?_⟩
  rcases cases with ⟨b, h⟩ | ⟨addr, payload, h⟩ | h | h | h <;> rw [h] at ht <;> cases ht
  · exact .inl ⟨b, rfl⟩
  · exact .inr (.inl ⟨addr, payload, rfl⟩)
  · exact .inr (.inr (.inl rfl))
  · exact .inr (.inr (.inr rfl))

/-- The invariant speaks of the parameters and DecoderState alone. -/
theorem State.Inv.of_sameDecoder {s t : State} (inv : s.Inv) (params : t.params = s.params) (same : SameDecoder s t) :
    t.Inv := by
  obtain ⟨⟨phase, dlen, count⟩, buf⟩ := same
  constructor <;> simp only [params, phase, dlen, count, buf]
  exacts [inv.legal, inv.count_le, inv.count_cap, inv.high, inv.low, inv.body, inv.buf_wf, inv.buf_cap, inv.written]

/-- Where `count` is zero and the buffer is as before, only what the phase asks of `dlen` is left to show. -/
theorem State.Inv.of_count_zero {s t : State} (inv : s.Inv) (params : t.params = s.params) (buf : t.buf = s.buf)
    (count : t.count = 0) (high : t.phase = .awaitingLengthHigh → t.dlen = 0)
    (low : t.phase = .awaitingLengthLow → loByte t.dlen = 0)
    (body : t.phase = .accumulatingBody → s.params.minLen ≤ t.dlen.toNat ∧ t.dlen.toNat + 1 ≤ s.params.rxBufCap) :
    t.Inv where
  legal := params ▸ inv.legal
  count_le := by omega
  count_cap := by omega
  high h := ⟨high h, count⟩
  low h := ⟨low h, count⟩
  body h := ⟨params ▸ (body h).1, params ▸ (body h).2, by omega⟩
  buf_wf := buf ▸ inv.buf_wf
  buf_cap := by rw [params, buf]; exact inv.buf_cap
  written := by simp [count]

/-- Returning to AwaitingStart keeps the invariant, which asks nothing more of that phase. -/
theorem State.Inv.setPhase_awaitingStart {s : State} (inv : s.Inv) : (s.setPhase .awaitingStart).Inv :=
  { inv with high := nofun, low := nofun, body := nofun }

/-- Storing a byte where there is room keeps the invariant, outside the length phases; in AccumulatingBody the checksum byte
must still be missing afterwards. -/
theorem State.appendByte_inv {s : State} (inv : s.Inv) (b : Byte) (le : s.count ≤ s.dlen.toNat)
    (room : s.count < s.params.rxBufCap)
    (phase : s.phase = .awaitingStart ∨ s.phase = .accumulatingBody ∧ s.count < s.dlen.toNat) : (s.appendByte b).Inv where
  legal := inv.legal
  count_le := Nat.succ_le_succ le
  count_cap := room
  high h := by rcases phase with hp | ⟨hp, -⟩ <;> simp [hp] at h
  low h := by rcases phase with hp | ⟨hp, -⟩ <;> simp [hp] at h
  body h := by
    rcases phase with hp | ⟨hp, lt⟩
    · simp [hp] at h
    · obtain ⟨minLen, fits, -⟩ := inv.body hp
      exact ⟨minLen, fits, lt⟩
  buf_wf := State.appendByte_wf b inv.buf_wf
  buf_cap := State.appendByte_cap b inv.buf_cap room
  written i hi := by
    by_cases h : i = s.count
    · simp [h, Memory.read?_write_same]
    · rw [State.appendByte_buf, Memory.read?_write_other _ _ _ h]
      exact inv.written i (Nat.lt_of_le_of_ne (Nat.le_of_lt_succ hi) h)

/-- The state RX_COMPLETE validates meets the invariant. -/
theorem completedBy_inv {s : State} (inv : s.Inv) (b : Byte) (complete : Completing s) : (completedBy s b).Inv := by
  obtain ⟨-, count, room⟩ := complete
  exact (State.appendByte_inv inv.setPhase_awaitingStart b count.le room (.inl rfl)).of_sameDecoder rfl ⟨⟨rfl, rfl, rfl⟩, rfl⟩

/-- STEP keeps the invariant, row by row (41_decoder.md R121 to R128). -/
theorem stepped_inv {s : State} (inv : s.Inv) (b : Byte) : (stepped b s).Inv := by
  refine stepped_cases (P := State.Inv) b s ?start ?ignore ?high ?low_discard ?low_accept ?forced ?body ?dispatch ?mismatch
  case start => exact fun _ _ => inv.of_count_zero rfl rfl rfl (fun _ => rfl) nofun nofun
  case ignore => exact fun _ _ => inv.of_sameDecoder rfl ⟨⟨rfl, rfl, rfl⟩, rfl⟩
  case high => exact fun hp => inv.of_count_zero rfl rfl (inv.high hp).2 nofun (fun _ => dlenOfHigh_low b) nofun
  case low_discard => exact fun hp _ => inv.of_count_zero rfl rfl (inv.low hp).2 nofun nofun nofun
  case low_accept =>
    intro hp accepted
    refine inv.of_count_zero rfl rfl (inv.low hp).2 nofun nofun fun _ => ?_
    simp only [State.setPhase_dlen, State.setDlen_dlen]
    omega
  case forced => exact fun _ _ => inv.setPhase_awaitingStart.of_sameDecoder rfl ⟨⟨rfl, rfl, rfl⟩, rfl⟩
  case body =>
    exact fun hp lt room =>
      (State.appendByte_inv inv b lt.le room (.inr ⟨hp, lt⟩)).of_sameDecoder rfl ⟨⟨rfl, rfl, rfl⟩, rfl⟩
  case dispatch =>
    exact fun complete _ =>
      (completedBy_inv inv b complete).of_sameDecoder (by simp) (by simp [SameDecoder, SameRegisters])
  case mismatch => exact fun complete _ => (completedBy_inv inv b complete).of_sameDecoder rfl ⟨⟨rfl, rfl, rfl⟩, rfl⟩

/-- ENCODE keeps the invariant: it writes no DecoderState. -/
theorem encoded_inv {s : State} (inv : s.Inv) (addr : Addr64) (payload : List Byte) :
    (encoded addr payload s).Inv :=
  inv.of_sameDecoder (by simp) (by simp [SameDecoder, SameRegisters])

/-- RESET leads to the invariant. -/
theorem execReset_inv {s : State} (inv : s.Inv) :
    (((s.clearOutputs.setPhase .awaitingStart).setDlen 0).setCount 0).Inv :=
  inv.of_count_zero rfl rfl rfl nofun nofun nofun

/-- A state that differs from one of the invariant in the schedule and the source alone meets it. -/
theorem State.Inv.of_schedule {s u : State} (inv : s.Inv) (hu : u = { s with source := u.source, turns := u.turns }) :
    u.Inv :=
  inv.of_sameDecoder (by rw [hu]) (by rw [hu]; exact ⟨⟨rfl, rfl, rfl⟩, rfl⟩)

/-- Settles O40, case by case along what a step can do. -/
theorem everyStepKeepsTheInvariant : Obligations.EveryStepKeepsTheInvariant := by
  unfold Obligations.EveryStepKeepsTheInvariant
  intro s t inv ht
  obtain ⟨u, hu, -, did⟩ := step_next_cases ht
  have inv_u := inv.of_schedule hu
  rcases did with ⟨b, rfl⟩ | ⟨addr, payload, rfl⟩ | rfl | rfl
  · exact stepped_inv inv_u b
  · exact encoded_inv inv_u addr payload
  · exact execReset_inv inv_u
  · exact inv_u.of_sameDecoder rfl ⟨⟨rfl, rfl, rfl⟩, rfl⟩

/-- The invariant at power-on: nothing has been received, so only the legality of the parameters is asked for. -/
theorem State.powerOn_inv {p : Config.Params} (source : List Byte) (turns : List Turn) (legal : p.Legal) :
    (State.powerOn p source turns).Inv where
  legal := legal
  count_le := Nat.zero_le _
  count_cap := Nat.zero_le _
  high := nofun
  low := nofun
  body := nofun
  buf_wf := State.reset_buf_wf
  buf_cap := nofun
  written := nofun

/-- Settles O39: State.reset is power-on with the spec's parameters, an empty stream and an empty schedule. -/
theorem powerOnMeetsTheInvariant : Obligations.PowerOnMeetsTheInvariant := by
  unfold Obligations.PowerOnMeetsTheInvariant
  exact ⟨State.powerOn_inv (p := Config.defaultParams) [] [] (by decide),
    fun _ source turns legal => State.powerOn_inv source turns legal⟩

/-- Settles O32: each clause reads one field of the reset state. -/
theorem powerOnState : Obligations.PowerOnState := by
  unfold Obligations.PowerOnState
  exact ⟨rfl, rfl, rfl, rfl, fun _ => rfl, rfl, rfl, rfl, rfl, rfl⟩

/-- DISPATCH records no forced reset. -/
theorem dispatched_rxReason_ne_invariantReset (s : State) : (dispatched s).rxReason ≠ .invariantReset := by
  refine dispatched_cases (P := fun t => t.rxReason ≠ .invariantReset) s ?_ ?_ ?_ ?_ ?_ <;> intros <;> simp

/-- Under the invariant RX_FORCED_RESET applies to no byte, and no other row records a forced reset. -/
theorem State.Inv.stepped_rxReason_ne_invariantReset {s : State} (inv : s.Inv) (b : Byte) :
    (stepped b s).rxReason ≠ .invariantReset := by
  refine stepped_cases (P := fun t => t.rxReason ≠ .invariantReset) b s ?start ?ignore ?high ?low_discard ?low_accept ?forced
    ?body ?dispatch ?mismatch
  case forced =>
    intro hp violated
    obtain ⟨-, fits, le⟩ := inv.body hp
    omega
  case dispatch => exact fun _ _ => dispatched_rxReason_ne_invariantReset _
  all_goals intros; simp

@[simp] theorem encoded_rxReason (addr : Addr64) (payload : List Byte) (s : State) :
    (encoded addr payload s).rxReason = .none := by
  unfold encoded; split_ifs <;> simp

/-- From a state of the invariant no step records a forced reset. -/
theorem State.Inv.step_rxReason_ne_invariantReset {s t : State} (inv : s.Inv) (ht : step s = .next t) :
    t.rxReason ≠ .invariantReset := by
  obtain ⟨u, hu, -, did⟩ := step_next_cases ht
  rcases did with ⟨b, rfl⟩ | ⟨addr, payload, rfl⟩ | rfl | rfl
  · exact (inv.of_schedule hu).stepped_rxReason_ne_invariantReset b
  all_goals simp

/-- No step changes the parameters (10_state.md R28). -/
theorem step_params {s t : State} (ht : step s = .next t) : t.params = s.params := by
  obtain ⟨u, hu, -, did⟩ := step_next_cases ht
  have params : u.params = s.params := by rw [hu]
  rcases did with ⟨b, rfl⟩ | ⟨addr, payload, rfl⟩ | rfl | rfl <;> simp [params]

/-- What every run from power-on keeps: the invariant, the parameters, and that the last operation was no forced reset. -/
def SafeWith (p : Config.Params) (s : State) : Prop := s.Inv ∧ s.params = p ∧ s.rxReason ≠ .invariantReset

theorem safeWith_step {p : Config.Params} (s t : State) (safe : SafeWith p s) (ht : step s = .next t) : SafeWith p t :=
  ⟨everyStepKeepsTheInvariant s t safe.1 ht, (step_params ht).trans safe.2.1, safe.1.step_rxReason_ne_invariantReset ht⟩

/-- Settles O41: every run from power-on stays in `SafeWith p`. -/
theorem forcedResetIsUnreachable : Obligations.ForcedResetIsUnreachable := by
  unfold Obligations.ForcedResetIsUnreachable
  intro p source turns n t legal run
  obtain ⟨inv, rfl, reason⟩ : SafeWith p t :=
    run_keeps safeWith_step ⟨State.powerOn_inv source turns legal, rfl, nofun⟩ run
  exact ⟨inv.count_le, inv.count_cap, inv.body, reason⟩

end Sys2Proof.Machine
end

section
/-! PROOFS. Stale buffer bytes never reach an output (10_state.md R24, R32; decision D6). The relation
`DifferOnlyInStaleBytes` is kept by every operation: the ones that do not touch the buffer keep it as they are
(`DifferOnlyInStaleBytes.map`), a stored byte is the same on both sides, and a completed frame is read below `count` only. -/

namespace Sys2Proof.Machine

open Sys2Proof

/-- An update that neither reads nor writes the buffer, and does not raise `count`, makes no stale byte live. -/
theorem DifferOnlyInStaleBytes.map {s t : State} (h : DifferOnlyInStaleBytes s t) (f : State → State)
    (ignores : ∀ u m, f { u with buf := m } = { f u with buf := m }) (count : (f s).count ≤ s.count) :
    DifferOnlyInStaleBytes (f s) (f t) := by
  obtain ⟨eq, reads⟩ := h
  have buf (u : State) : (f u).buf = u.buf := (congrArg State.buf (ignores u u.buf) :)
  refine ⟨?_, fun i hi => ?_⟩
  · rw [buf t, ← ignores, ← eq]
  · rw [State.bufRead_congr (buf t), State.bufRead_congr (buf s)]
    exact reads i (hi.trans_le count)

/-- Appending the same byte to both: the byte that becomes live is the one just stored. -/
theorem DifferOnlyInStaleBytes.appendByte {s t : State} (h : DifferOnlyInStaleBytes s t) (b : Byte) :
    DifferOnlyInStaleBytes (s.appendByte b) (t.appendByte b) := by
  obtain ⟨eq, reads⟩ := h
  have count : t.count = s.count := by rw [eq]
  refine ⟨by rw [eq]; rfl, fun i hi => ?_⟩
  by_cases last : i = s.count
  · rw [last, State.appendByte_bufRead_count, ← count, State.appendByte_bufRead_count]
  · rw [State.appendByte_bufRead_other t b (count ▸ last), State.appendByte_bufRead_other s b last]
    exact reads i (Nat.lt_of_le_of_ne (Nat.le_of_lt_succ hi) last)

/-- A slice that ends at or below `count` holds no stale byte. -/
theorem DifferOnlyInStaleBytes.bufSlice {s t : State} (h : DifferOnlyInStaleBytes s t) {a b : Nat} (hb : b ≤ s.count) :
    t.bufSlice a b = s.bufSlice a b :=
  State.bufSlice_congr fun i _ hi => h.2 i (hi.trans_le hb)

/-- DISPATCH of a completed frame reads the frame alone: its type byte, its payload or its status byte. -/
theorem dispatched_differOnlyInStaleBytes {s t : State} (h : DifferOnlyInStaleBytes s t)
    (complete : s.count = s.dlen.toNat + 1) : DifferOnlyInStaleBytes (dispatched s) (dispatched t) := by
  have dlen : t.dlen = s.dlen := by rw [h.1]
  have type : t.bufRead 0 = s.bufRead 0 := h.2 0 (by omega)
  unfold dispatched
  rw [type, dlen, h.bufSlice (by omega)]
  split_ifs with _ _ _ short
  · exact h.map (State.discard · .malformedShortBody) (fun _ _ => rfl) le_rfl
  · exact h.map (State.emit · (.receivedData (s.bufSlice 12 s.dlen.toNat))) (fun _ _ => rfl) le_rfl
  · exact h.map (State.discard · .malformedShortBody) (fun _ _ => rfl) le_rfl
  · rw [h.2 5 (by omega)]
    exact h.map (State.emit · (.transmitStatus (s.bufRead 5 == 0x00))) (fun _ _ => rfl) le_rfl
  · exact h.map (State.discard · .unknownFrameType) (fun _ _ => rfl) le_rfl

/-- The states RX_COMPLETE validates. -/
theorem completedBy_differOnlyInStaleBytes {s t : State} (h : DifferOnlyInStaleBytes s t) (b : Byte) :
    DifferOnlyInStaleBytes (completedBy s b) (completedBy t b) :=
  ((h.map State.clearOutputs (fun _ _ => rfl) le_rfl).appendByte b).map (State.setPhase · .awaitingStart)
    (fun _ _ => rfl) le_rfl

/-- STEP: both states are in the same row, and validate the same sum (41_decoder.md R120 to R128). -/
theorem stepped_differOnlyInStaleBytes {s t : State} (h : DifferOnlyInStaleBytes s t) (b : Byte) :
    DifferOnlyInStaleBytes (stepped b s) (stepped b t) := by
  have phase : t.phase = s.phase := by rw [h.1]
  have dlen : t.dlen = s.dlen := by rw [h.1]
  have count : t.count = s.count := by rw [h.1]
  have params : t.params = s.params := by rw [h.1]
  refine stepped_cases (P := (DifferOnlyInStaleBytes · (stepped b t))) b s ?start ?ignore ?high ?low_discard ?low_accept
    ?forced ?body ?dispatch ?mismatch
  case start =>
    rintro hp rfl
    rw [stepped_start (phase.trans hp)]
    exact h.map (fun u => ((u.clearOutputs.setPhase .awaitingLengthHigh).setDlen 0).setCount 0) (fun _ _ => rfl)
      (Nat.zero_le _)
  case ignore =>
    intro hp hb
    rw [stepped_ignore (phase.trans hp) hb]
    exact h.map State.clearOutputs (fun _ _ => rfl) le_rfl
  case high =>
    intro hp
    rw [stepped_high b (phase.trans hp)]
    exact h.map (fun u => (u.clearOutputs.setDlen (dlenOfHigh b)).setPhase .awaitingLengthLow) (fun _ _ => rfl) le_rfl
  case low_discard =>
    intro hp rejected
    rw [stepped_low_discard (phase.trans hp) (by rwa [dlen, params]), dlen]
    exact h.map (fun u => (u.clearOutputs.setDlen (dlenOrLow s.dlen b)).enterDiscard .malformedLength) (fun _ _ => rfl)
      le_rfl
  case low_accept =>
    intro hp accepted
    rw [stepped_low_accept (phase.trans hp) (by rwa [dlen, params]), dlen]
    exact h.map (fun u => (u.clearOutputs.setDlen (dlenOrLow s.dlen b)).setPhase .accumulatingBody) (fun _ _ => rfl)
      le_rfl
  case forced =>
    intro hp violated
    rw [stepped_forced b (phase.trans hp) (by rwa [dlen, count, params])]
    exact h.map (fun u => u.clearOutputs.enterDiscard .invariantReset) (fun _ _ => rfl) le_rfl
  case body =>
    intro hp lt room
    rw [stepped_body b (phase.trans hp) (by rwa [dlen, count]) (by rwa [count, params])]
    exact (h.map State.clearOutputs (fun _ _ => rfl) le_rfl).appendByte b
  case dispatch =>
    intro complete valid
    have complete_t : Completing t := by rwa [Completing, phase, dlen, count, params]
    rw [stepped_dispatch complete_t (by rwa [dlen, h.bufSlice complete.2.1.ge])]
    exact dispatched_differOnlyInStaleBytes (completedBy_differOnlyInStaleBytes h b) (congrArg (· + 1) complete.2.1)
  case mismatch =>
    intro complete invalid
    have complete_t : Completing t := by rwa [Completing, phase, dlen, count, params]
    rw [stepped_mismatch complete_t (by rwa [dlen, h.bufSlice complete.2.1.ge])]
    exact (completedBy_differOnlyInStaleBytes h b).map (State.discard · .checksumMismatch) (fun _ _ => rfl) le_rfl

/-- ENCODE reads no buffer byte. -/
theorem encoded_differOnlyInStaleBytes {s t : State} (h : DifferOnlyInStaleBytes s t) (addr : Addr64)
    (payload : List Byte) : DifferOnlyInStaleBytes (encoded addr payload s) (encoded addr payload t) := by
  refine h.map (encoded addr payload) (fun u m => ?_) (by simp)
  unfold encoded
  split_ifs <;> rfl

/-- The operation a transaction presents is a STEP, an ENCODE or a RESET, or the selector is reserved (30_encoding.md R66). -/
theorem decodeCommand_cases (c : CmdWord) :
    (∃ b, decodeCommand c = .ok (.step b)) ∨ (∃ addr payload, decodeCommand c = .ok (.encode addr payload)) ∨
      decodeCommand c = .ok .reset ∨ decodeCommand c = .error .reservedSelector := by
  unfold decodeCommand
  split_ifs <;> simp

/-- Which transaction is next depends on the schedule and the source alone. -/
theorem nextCommand_withBuf (s : State) (m : Memory) :
    nextCommand { s with buf := m } = ((nextCommand s).1, { (nextCommand s).2 with buf := m }) := by
  cases hturns : s.turns with
  | nil => simp only [nextCommand, hturns]
  | cons turn _ =>
    cases turn with
    | command _ => simp only [nextCommand, hturns]
    | poll => cases hsource : s.source <;> simp only [nextCommand, hturns, hsource]

/-- Both states present the same transaction, or none, and still differ only in stale bytes. -/
theorem nextCommand_differOnlyInStaleBytes {s t : State} (h : DifferOnlyInStaleBytes s t) :
    (nextCommand t).1 = (nextCommand s).1 ∧ DifferOnlyInStaleBytes (nextCommand s).2 (nextCommand t).2 := by
  constructor
  · rw [h.1, nextCommand_withBuf]
  · exact h.map (fun u => (nextCommand u).2) (fun u m => congrArg Prod.snd (nextCommand_withBuf u m))
      (by rw [nextCommand_frame])

/-- Settles O42: both blocks are built alike and present the same transaction, and each operation keeps the relation. -/
theorem staleBytesNeverReachAnOutput : Obligations.StaleBytesNeverReachAnOutput := by
  unfold Obligations.StaleBytesNeverReachAnOutput
  intro s t h
  have params : t.params = s.params := by rw [h.1]
  by_cases legal : s.params.Legal
  case neg => exact .inl ⟨.illegalParameters, if_neg legal, if_neg (params ▸ legal)⟩
  obtain ⟨presented, h'⟩ := nextCommand_differOnlyInStaleBytes h
  simp only [step, if_pos legal, params]
  rcases hs : nextCommand s with ⟨c, u⟩
  rcases ht : nextCommand t with ⟨c', v⟩
  rw [hs, ht] at presented h'
  obtain rfl : c' = c := presented
  cases c' with
  | none => exact .inr ⟨_, _, rfl, rfl, h'.map State.clearOutputs (fun _ _ => rfl) le_rfl⟩
  | some c =>
    rcases decodeCommand_cases c with ⟨b, hc⟩ | ⟨addr, payload, hc⟩ | hc | hc <;> simp only [hc]
    · exact .inr ⟨_, _, exec_step b u, exec_step b v, stepped_differOnlyInStaleBytes h' b⟩
    · exact .inr ⟨_, _, exec_encode addr payload u, exec_encode addr payload v,
        encoded_differOnlyInStaleBytes h' addr payload⟩
    · exact .inr ⟨_, _, exec_reset u, exec_reset v,
        h'.map (fun w => ((w.clearOutputs.setPhase .awaitingStart).setDlen 0).setCount 0) (fun _ _ => rfl)
          (Nat.zero_le _)⟩
    · exact .inl ⟨_, rfl, rfl⟩

end Sys2Proof.Machine
end

section
/-! PROOFS. The frame of all 14 instructions: what none changes, and what each leaves alone (10_state.md R22, R23, R27, R28,
20_memory.md R42, R52). Each clause is a lemma of its own, split along `exec_next_cases`. -/

namespace Sys2Proof.Machine

open Sys2Proof

/-- No instruction changes the parameters, the source or the schedule. -/
theorem exec_params_source_turns {i : Instr} {s t : State} (h : exec i s = .next t) :
    t.params = s.params ∧ t.source = s.source ∧ t.turns = s.turns := by
  rcases exec_next_cases h with ⟨b, rfl, -⟩ | ⟨addr, payload, -, rfl⟩ | ⟨-, rfl⟩ | ⟨-, rfl⟩ <;> simp

/-- Only ENCODE changes the ENCODE result or the sink (log 5). -/
theorem exec_encResult_sink {i : Instr} {s t : State} (h : exec i s = .next t)
    (not_encode : ∀ addr payload, i ≠ .encode addr payload) : t.encResult = s.encResult ∧ t.sink = s.sink := by
  rcases exec_next_cases h with ⟨b, rfl, -⟩ | ⟨addr, payload, hi, -⟩ | ⟨-, rfl⟩ | ⟨-, rfl⟩
  case inr.inl => exact absurd hi (not_encode addr payload)
  all_goals simp

/-- ENCODE and the frame-type rows leave DecoderState alone. -/
theorem exec_sameDecoder_of_encode_or_arm {i : Instr} {s t : State} (h : exec i s = .next t)
    (hi : (∃ addr payload, i = .encode addr payload) ∨ ArmApplies s i) : SameDecoder s t := by
  rcases hi with ⟨addr, payload, rfl⟩ | arm
  · cases (exec_encode addr payload s).symm.trans h
    simp [SameDecoder, SameRegisters]
  · cases (exec_arm arm).symm.trans h
    simp [SameDecoder, SameRegisters]

/-- STEP changes `dlen` only where it takes a start marker or a length byte. -/
theorem stepped_dlen_cases (b : Byte) (s : State) : (stepped b s).dlen = s.dlen ∨
    (s.phase = .awaitingStart ∧ b = 0x7E) ∨ s.phase = .awaitingLengthHigh ∨ s.phase = .awaitingLengthLow := by
  refine stepped_cases (P := fun t => t.dlen = s.dlen ∨ (s.phase = .awaitingStart ∧ b = 0x7E) ∨
    s.phase = .awaitingLengthHigh ∨ s.phase = .awaitingLengthLow) b s ?start ?ignore ?high ?low_discard ?low_accept ?forced
    ?body ?dispatch ?mismatch
  case start => exact fun hp hb => .inr (.inl ⟨hp, hb⟩)
  case high => exact fun hp => .inr (.inr (.inl hp))
  case low_discard | low_accept => exact fun hp _ => .inr (.inr (.inr hp))
  all_goals intros; simp

/-- In the body of a frame STEP leaves `dlen` alone. -/
theorem stepped_dlen_of_body {s : State} (b : Byte) (hp : s.phase = .accumulatingBody) : (stepped b s).dlen = s.dlen := by
  simpa [hp] using stepped_dlen_cases b s

/-- In the body of a frame only RESET changes `dlen`. -/
theorem exec_dlen_of_body {i : Instr} {s t : State} (h : exec i s = .next t) (hp : s.phase = .accumulatingBody)
    (not_reset : i ≠ .reset) : t.dlen = s.dlen := by
  rcases exec_next_cases h with ⟨b, rfl, -⟩ | ⟨addr, payload, -, rfl⟩ | ⟨hi, -⟩ | ⟨-, rfl⟩
  · exact stepped_dlen_of_body b hp
  · simp
  · exact absurd hi not_reset
  · simp

/-- A transition row that answers a next state has done what STEP does with the byte the table gives it. -/
theorem stepped_of_row_next {i : Instr} {s t : State} (h : exec i s = .next t)
    (hi : i = .rxStart ∨ ∃ c, i = .rxIgnore c ∨ i = .rxLenHi c ∨ i = .rxLenLo c ∨ i = .rxBody c ∨ i = .rxComplete c ∨
      i = .rxForcedReset c) : ∃ b, RowApplies s b i ∧ t = stepped b s := by
  obtain ⟨b, row⟩ := row_of_next h hi
  cases (exec_row row).symm.trans h
  exact ⟨b, row, rfl⟩

/-- RX_IGNORE leaves DecoderState alone. -/
theorem exec_rxIgnore_sameDecoder {b : Byte} {s t : State} (h : exec (.rxIgnore b) s = .next t) : SameDecoder s t := by
  obtain ⟨c, ⟨-, hp, hc⟩, rfl⟩ := stepped_of_row_next h (by simp)
  rw [stepped_ignore hp hc]
  exact ⟨⟨rfl, rfl, rfl⟩, rfl⟩

/-- So does a STEP of a byte that RX_IGNORE takes. -/
theorem exec_step_sameDecoder_of_noise {b : Byte} {s t : State} (h : exec (.step b) s = .next t)
    (hp : s.phase = .awaitingStart) (hb : b ≠ 0x7E) : SameDecoder s t := by
  cases (exec_step b s).symm.trans h
  rw [stepped_ignore hp hb]
  exact ⟨⟨rfl, rfl, rfl⟩, rfl⟩

/-- `dlen` changes only where a start marker, a length byte or RESET writes it. -/
theorem exec_dlen_cases {i : Instr} {s t : State} (h : exec i s = .next t) :
    t.dlen = s.dlen ∨ i = .reset ∨ i = .rxStart ∨ (∃ b, i = .rxLenHi b ∨ i = .rxLenLo b) ∨
      ∃ b, i = .step b ∧ ((s.phase = .awaitingStart ∧ b = 0x7E) ∨ s.phase = .awaitingLengthHigh ∨
        s.phase = .awaitingLengthLow) := by
  rcases exec_next_cases h with ⟨b, rfl, rfl | row⟩ | ⟨addr, payload, -, rfl⟩ | ⟨hi, -⟩ | ⟨-, rfl⟩
  · exact (stepped_dlen_cases b s).imp_right fun wrote => .inr (.inr (.inr ⟨b, rfl, wrote⟩))
  · cases i with
    | rxStart | rxLenHi _ | rxLenLo _ => simp
    | rxIgnore _ => obtain ⟨-, hp, hb⟩ := row; exact .inl (by rw [stepped_ignore hp hb]; rfl)
    | rxBody _ | rxComplete _ | rxForcedReset _ => exact .inl (stepped_dlen_of_body b row.2.1)
    | step _ | encode _ _ | reset | ftRxpkt | ftTxstat | ftTxreq | ftUnknown _ => exact row.elim
  · simp
  · exact .inr (.inl hi)
  · simp

/-- The second length byte leaves `count` alone, whether the length is accepted or not. -/
theorem stepped_count_of_low {s : State} (b : Byte) (hp : s.phase = .awaitingLengthLow) :
    (stepped b s).count = s.count := by
  by_cases rejected : (dlenOrLow s.dlen b).toNat + 1 > s.params.rxBufCap ∨ (dlenOrLow s.dlen b).toNat < s.params.minLen
  · rw [stepped_low_discard hp rejected]; rfl
  · rw [stepped_low_accept hp rejected]; rfl

/-- The length rows and RX_FORCED_RESET leave `count` alone. -/
theorem exec_count_of_length_or_forced {b : Byte} {i : Instr} {s t : State} (h : exec i s = .next t)
    (hi : i = .rxLenHi b ∨ i = .rxLenLo b ∨ i = .rxForcedReset b) : t.count = s.count := by
  rcases hi with rfl | rfl | rfl <;> obtain ⟨c, row, rfl⟩ := stepped_of_row_next h (by simp)
  · rw [stepped_high c row.2]; rfl
  · exact stepped_count_of_low c row.2
  · obtain ⟨-, hp, violated⟩ := row
    rw [stepped_forced c hp violated]; rfl

/-- The body rows leave `dlen` alone: they run in the body of a frame. -/
theorem exec_dlen_of_body_row {i : Instr} {s t : State} (h : exec i s = .next t)
    (hi : ∃ b, i = .rxBody b ∨ i = .rxComplete b ∨ i = .rxForcedReset b) : t.dlen = s.dlen := by
  rcases hi with ⟨b, rfl | rfl | rfl⟩ <;> obtain ⟨c, row⟩ := row_of_next h (by simp) <;>
    exact exec_dlen_of_body h row.2.1 nofun

/-- Settles O37, one lemma per clause. -/
theorem whatEachInstructionLeavesAlone : Obligations.WhatEachInstructionLeavesAlone := by
  unfold Obligations.WhatEachInstructionLeavesAlone
  intro i s t h
  obtain ⟨params, source, turns⟩ := exec_params_source_turns h
  exact ⟨params, source, turns, exec_encResult_sink h, exec_sameDecoder_of_encode_or_arm h, exec_dlen_of_body h,
    fun b hi => exec_rxIgnore_sameDecoder (b := b) (hi ▸ h),
    fun b hi hp hb => exec_step_sameDecoder_of_noise (b := b) (hi ▸ h) hp hb,
    exec_dlen_cases h, fun b hi => exec_count_of_length_or_forced (b := b) h hi, exec_dlen_of_body_row h⟩

end Sys2Proof.Machine
end

section
/-! PROOFS. The accumulated-buffer (20_memory.md R42, R43): an instruction writes at most the byte at index `count`, and only
where `storedIndex` says so. -/

namespace Sys2Proof.Machine

open Sys2Proof

/-- In the body of a frame with room for a byte, STEP stores at `count`. -/
theorem storedIndex_step_of_room {s : State} (b : Byte) (hp : s.phase = .accumulatingBody) (le : s.count ≤ s.dlen.toNat)
    (room : s.count < s.params.rxBufCap) : storedIndex s (.step b) = some s.count :=
  if_pos ⟨hp, le, room⟩

/-- Outside the body of a frame STEP stores nothing. -/
theorem storedIndex_step_of_not_body {s : State} (b : Byte) (hp : s.phase ≠ .accumulatingBody) :
    storedIndex s (.step b) = none :=
  if_neg fun stores => hp stores.1

/-- A transition row stores where the STEP that selects it stores. -/
theorem storedIndex_of_row {s : State} {b : Byte} {i : Instr} (row : RowApplies s b i) :
    storedIndex s i = storedIndex s (.step b) := by
  cases i with
  | rxStart => exact (storedIndex_step_of_not_body b (by simp [row.1])).symm
  | rxIgnore _ => exact (storedIndex_step_of_not_body b (by simp [row.2.1])).symm
  | rxLenHi _ | rxLenLo _ => exact (storedIndex_step_of_not_body b (by simp [row.2])).symm
  | rxBody _ => obtain ⟨-, hp, lt, room⟩ := row; exact (storedIndex_step_of_room b hp lt.le room).symm
  | rxComplete _ => obtain ⟨-, hp, eq, room⟩ := row; exact (storedIndex_step_of_room b hp eq.le room).symm
  | rxForcedReset _ =>
    obtain ⟨-, -, violated⟩ := row
    exact (if_neg fun ⟨_, le, room⟩ => by omega).symm
  | step _ | encode _ _ | reset | ftRxpkt | ftTxstat | ftTxreq | ftUnknown _ => exact row.elim

/-- STEP leaves every byte of the buffer as it was, but the one it stores (41_decoder.md R125, R126). -/
theorem stepped_bufRead_of_not_stored {s : State} {b : Byte} {a : Nat} (other : storedIndex s (.step b) ≠ some a) :
    (stepped b s).bufRead a = s.bufRead a := by
  have ne_count (hp : s.phase = .accumulatingBody) (le : s.count ≤ s.dlen.toNat) (room : s.count < s.params.rxBufCap) :
      a ≠ s.count := by
    rintro rfl
    exact other (storedIndex_step_of_room b hp le room)
  refine stepped_cases (P := fun t => t.bufRead a = s.bufRead a) b s ?start ?ignore ?high ?low_discard ?low_accept ?forced
    ?body ?dispatch ?mismatch
  case body =>
    exact fun hp lt room => State.appendByte_bufRead_other s.clearOutputs b (ne_count hp lt.le room)
  case dispatch =>
    rintro ⟨hp, eq, room⟩ -
    rw [dispatched_bufRead, completedBy_bufRead_other s b (ne_count hp eq.le room)]
  case mismatch =>
    rintro ⟨hp, eq, room⟩ -
    rw [State.discard_bufRead, completedBy_bufRead_other s b (ne_count hp eq.le room)]
  all_goals intros; rfl

/-- Settles O38: what does as STEP stores where STEP stores, and nothing else writes the buffer. -/
theorem onlyTheByteAtCountIsWritten : Obligations.OnlyTheByteAtCountIsWritten := by
  unfold Obligations.OnlyTheByteAtCountIsWritten
  intro i s t h a other
  rcases exec_next_cases h with ⟨b, rfl, rfl | row⟩ | ⟨addr, payload, -, rfl⟩ | ⟨-, rfl⟩ | ⟨-, rfl⟩
  · exact stepped_bufRead_of_not_stored other
  · exact stepped_bufRead_of_not_stored (storedIndex_of_row row ▸ other)
  · exact State.bufRead_congr (encoded_buf addr payload s) a
  · rfl
  · exact dispatched_bufRead s a

end Sys2Proof.Machine
end

section
/-! PROOFS. ENCODE and STEP do not interfere (20_memory.md R52). ENCODE is its result and its write on the transport side and
absent outputs on the other (`encoded_eq`); STEP reads none of these (`stepped_withTransmitSide`, `stepped_clearOutputs`). -/

namespace Sys2Proof.Machine

open Sys2Proof

/-- The state with another ENCODE result and another sink: the part of the block that ENCODE writes. -/
def State.withTransmitSide (s : State) (result : Option EncResult) (sink : List (List Byte)) : State :=
  { s with encResult := result, sink := sink }

/-- DISPATCH neither reads nor writes the ENCODE result and the sink. -/
theorem dispatched_withTransmitSide (s : State) (result : Option EncResult) (sink : List (List Byte)) :
    dispatched (s.withTransmitSide result sink) = (dispatched s).withTransmitSide result sink := by
  simp only [dispatched, apply_ite (State.withTransmitSide · result sink)]
  rfl

/-- STEP neither reads nor writes the ENCODE result and the sink: it is in the same row and validates the same sum. -/
theorem stepped_withTransmitSide (b : Byte) (s : State) (result : Option EncResult) (sink : List (List Byte)) :
    stepped b (s.withTransmitSide result sink) = (stepped b s).withTransmitSide result sink := by
  refine stepped_cases (P := fun t => stepped b (s.withTransmitSide result sink) = t.withTransmitSide result sink) b s
    ?start ?ignore ?high ?low_discard ?low_accept ?forced ?body ?dispatch ?mismatch
  case start => rintro hp rfl; exact stepped_start hp
  case ignore => exact fun hp hb => stepped_ignore hp hb
  case high => exact fun hp => stepped_high b hp
  case low_discard => exact fun hp rejected => stepped_low_discard hp rejected
  case low_accept => exact fun hp accepted => stepped_low_accept hp accepted
  case forced => exact fun hp violated => stepped_forced b hp violated
  case body => exact fun hp lt room => stepped_body b hp lt room
  case dispatch =>
    exact fun complete valid => (stepped_dispatch (s := s.withTransmitSide result sink) complete valid).trans
      (dispatched_withTransmitSide (completedBy s b) result sink)
  case mismatch => exact fun complete invalid => stepped_mismatch complete invalid

/-- STEP starts from absent outputs, so it does not read those of the operation before it (41_decoder.md R120). -/
theorem stepped_clearOutputs (b : Byte) (s : State) : stepped b s.clearOutputs = stepped b s := rfl

/-- ENCODE writes the transmit side and makes the outputs absent; nothing else. -/
theorem encoded_eq (addr : Addr64) (payload : List Byte) (s : State) : encoded addr payload s =
    s.clearOutputs.withTransmitSide (encoded addr payload s).encResult (encoded addr payload s).sink := by
  unfold encoded
  split_ifs <;> rfl

/-- The ENCODE result depends on the operands and the parameters alone (40_encoder.md R100). -/
theorem encoded_encResult_congr (addr : Addr64) (payload : List Byte) {s t : State} (params : t.params = s.params) :
    (encoded addr payload t).encResult = (encoded addr payload s).encResult := by
  unfold encoded
  rw [params]
  split_ifs <;> rfl

/-- What ENCODE leaves in the sink depends on the operands, the parameters and the sink alone (40_encoder.md R105). -/
theorem encoded_sink_congr (addr : Addr64) (payload : List Byte) {s t : State} (params : t.params = s.params)
    (sink : t.sink = s.sink) : (encoded addr payload t).sink = (encoded addr payload s).sink := by
  unfold encoded
  rw [params]
  split_ifs <;> simp [sink]

/-- ENCODE leaves DecoderState alone. -/
theorem encoded_sameDecoder (addr : Addr64) (payload : List Byte) (s : State) :
    SameDecoder s (encoded addr payload s) :=
  exec_sameDecoder_of_encode_or_arm (exec_encode addr payload s) (.inl ⟨addr, payload, rfl⟩)

/-- STEP after ENCODE is STEP alone, with the transmit side that ENCODE left. -/
theorem stepped_encoded (b : Byte) (addr : Addr64) (payload : List Byte) (s : State) :
    stepped b (encoded addr payload s) =
      (stepped b s).withTransmitSide (encoded addr payload s).encResult (encoded addr payload s).sink := by
  conv_lhs => rw [encoded_eq, stepped_withTransmitSide, stepped_clearOutputs]

/-- Settles O36: after ENCODE then STEP every clause is read off `stepped_encoded`; after STEP then ENCODE, the parameters
and the sink that ENCODE reads are those STEP left alone. -/
theorem encodeAndStepDoNotInterfere : Obligations.EncodeAndStepDoNotInterfere := by
  unfold Obligations.EncodeAndStepDoNotInterfere
  intro s addr payload b
  refine ⟨encoded addr payload s, stepped b s,
    (stepped b s).withTransmitSide (encoded addr payload s).encResult (encoded addr payload s).sink,
    encoded addr payload (stepped b s), exec_encode addr payload s, exec_step b s, ?encode_then_step,
    exec_encode addr payload _, encoded_sameDecoder addr payload s, ⟨⟨rfl, rfl, rfl⟩, rfl⟩,
    encoded_sameDecoder addr payload _, rfl, rfl, rfl, rfl, rfl, rfl,
    encoded_encResult_congr addr payload (stepped_params b s),
    encoded_sink_congr addr payload (stepped_params b s) (stepped_sink b s), ?result, ?step⟩
  case encode_then_step => rw [exec_step, stepped_encoded]
  case result => exact fun u params => ⟨_, exec_encode addr payload u, encoded_encResult_congr addr payload params⟩
  case step => exact fun r k => (exec_step b _).trans (congrArg _ (stepped_withTransmitSide b s r k))

end Sys2Proof.Machine
end

section
/-! PROOFS. The encodings (30_encoding.md R65, R66, R67, R76): `encode` and `decode` are inverse to each other, and the
transition rows of the opcode table are those the decoder reads from the word `phase ++ rx_byte`. -/

namespace Sys2Proof.Machine

open Sys2Proof

/-- Settles O2, one lemma of Laws/PerInstr for each constructor. -/
theorem decodeOfEncodeIsTheInstruction : Obligations.DecodeOfEncodeIsTheInstruction := by
  unfold Obligations.DecodeOfEncodeIsTheInstruction
  intro i
  cases i with
  | step b => exact Laws.DecodeEncode.step b
  | encode addr payload => exact Laws.DecodeEncode.encode addr payload
  | reset => exact Laws.DecodeEncode.reset
  | rxStart => exact Laws.DecodeEncode.rxStart
  | rxIgnore b => exact Laws.DecodeEncode.rxIgnore b
  | rxLenHi b => exact Laws.DecodeEncode.rxLenHi b
  | rxLenLo b => exact Laws.DecodeEncode.rxLenLo b
  | rxBody b => exact Laws.DecodeEncode.rxBody b
  | rxComplete b => exact Laws.DecodeEncode.rxComplete b
  | rxForcedReset b => exact Laws.DecodeEncode.rxForcedReset b
  | ftRxpkt => exact Laws.DecodeEncode.ftRxpkt
  | ftTxstat => exact Laws.DecodeEncode.ftTxstat
  | ftTxreq => exact Laws.DecodeEncode.ftTxreq
  | ftUnknown t => exact Laws.DecodeEncode.ftUnknown t

/-- The table has `i` as the row of the word `e`, in a context in which its `cond` column holds. -/
def IsRowOf (c : RxContext) (e : Encoded) (i : Instr) : Prop := i.wellFormed ∧ c.admits i ∧ encode i = e

/-- The decoder reads the row of a word from the word. -/
theorem IsRowOf.decode_eq {c : RxContext} {e : Encoded} {i : Instr} (row : IsRowOf c e i) : decode c e = .ok i := by
  obtain ⟨wellFormed, admitted, rfl⟩ := row
  exact decodeOfEncodeIsTheInstruction i c wellFormed admitted

/-- What the decoder reads from a phase and a byte is a row of that word. -/
theorem decodeTransition_isRowOf_word (c : RxContext) (p : Phase) (b : Byte) :
    IsRowOf c (.transition (transitionWord p b)) (decodeTransition c (transitionWord p b)) := by
  rw [decodeTransition_word]
  cases p with
  | awaitingStart =>
    dsimp only
    split_ifs with start
    · exact ⟨rfl, rfl, by rw [start]; rfl⟩
    · exact ⟨bne_iff_ne.mpr start, rfl, rfl⟩
  | awaitingLengthHigh => exact ⟨rfl, rfl, rfl⟩
  | awaitingLengthLow => exact ⟨rfl, rfl, rfl⟩
  | accumulatingBody =>
    rcases c.rows_partition with ⟨forced, -, -⟩ | ⟨forced, body, -⟩ | ⟨forced, body, complete⟩
    · simpa only [forced] using ⟨rfl, forced, rfl⟩
    · simpa only [forced, body] using ⟨rfl, body, rfl⟩
    · simpa only [forced, body] using ⟨rfl, complete, rfl⟩

/-- Every 10-bit word is the word of a phase and a byte, so it is read as one of its rows. -/
theorem decodeTransition_isRowOf (c : RxContext) (w : BitVec 10) : IsRowOf c (.transition w) (decodeTransition c w) := by
  rw [← transitionWord_fields w]
  exact decodeTransition_isRowOf_word c _ _

/-- What the decoder reads from a frame-type byte is a row of that byte. -/
theorem decodeFrameType_isRowOf (c : RxContext) (t : Byte) : IsRowOf c (.frameType t) (decodeFrameType t) := by
  unfold decodeFrameType
  split_ifs with rxpkt txstat txreq
  · exact ⟨rfl, rfl, congrArg _ rxpkt.symm⟩
  · exact ⟨rfl, rfl, congrArg _ txstat.symm⟩
  · exact ⟨rfl, rfl, congrArg _ txreq.symm⟩
  · exact ⟨by simp [Instr.wellFormed, rxpkt, txstat, txreq], rfl, rfl⟩

/-- A command encodes back to its selector and to the operand ports its selector names (log 20). -/
theorem decodeCommand_encodes_back {w : CmdWord} {i : Instr} (h : decodeCommand w = .ok i) (c : RxContext) :
    i.wellFormed ∧ c.admits i ∧ ∃ v, encode i = .command v ∧ v.sel = w.sel ∧ (w.sel = 0b00 → v.rxByte = w.rxByte) ∧
      (w.sel = 0b01 → v.encAddr = w.encAddr ∧ v.encPayload = w.encPayload) := by
  unfold decodeCommand at h
  split_ifs at h with sel sel sel <;> cases h
  · exact ⟨rfl, rfl, _, rfl, sel.symm, fun _ => rfl, fun other => absurd (sel.symm.trans other) (by decide)⟩
  · exact ⟨rfl, rfl, _, rfl, sel.symm, fun other => absurd (sel.symm.trans other) (by decide), fun _ => ⟨rfl, rfl⟩⟩
  · exact ⟨rfl, rfl, _, rfl, sel.symm, fun other => absurd (sel.symm.trans other) (by decide),
      fun other => absurd (sel.symm.trans other) (by decide)⟩

/-- Settles O3, format by format. -/
theorem decodedWordEncodesBack : Obligations.DecodedWordEncodesBack := by
  unfold Obligations.DecodedWordEncodesBack
  intro c e i h
  cases e with
  | command w => exact decodeCommand_encodes_back h c
  | transition w => cases h; exact decodeTransition_isRowOf c w
  | frameType t => cases h; exact decodeFrameType_isRowOf c t

/-- A transition word determines its phase and its byte. -/
theorem transitionWord_eq_iff {p q : Phase} {b c : Byte} : transitionWord p b = transitionWord q c ↔ p = q ∧ b = c := by
  constructor
  · intro h
    have phase := congrArg (fun w => Phase.ofBits (w.extractLsb' 8 2)) h
    have byte := congrArg (fun w => w.extractLsb' 0 8) h
    simp only [transitionWord_phase, Phase.ofBits_encoding, transitionWord_byte] at phase byte
    exact ⟨phase, byte⟩
  · rintro ⟨rfl, rfl⟩
    rfl

/-- A row applies to a state and a byte where it is the row of their word in the context of the state. -/
theorem rowApplies_iff (s : State) (b : Byte) (i : Instr) :
    RowApplies s b i ↔ IsRowOf s.rxContext (.transition (s.transitionWord b)) i := by
  have word (p : Phase) (c : Byte) : Encoded.transition (transitionWord p c) = .transition (s.transitionWord b) ↔
      c = b ∧ s.phase = p := by
    rw [Encoded.transition.injEq, State.transitionWord, transitionWord_eq_iff, and_comm, eq_comm (a := p)]
  cases i with
  | rxStart => simp [RowApplies, IsRowOf, Instr.wellFormed, RxContext.admits, encode, word, and_comm, eq_comm, Config.START]
  | rxIgnore c =>
    simp only [RowApplies, IsRowOf, Instr.wellFormed, RxContext.admits, encode, word, bne_iff_ne, true_and]
    constructor
    · rintro ⟨rfl, hp, hb⟩; exact ⟨hb, rfl, hp⟩
    · rintro ⟨hc, rfl, hp⟩; exact ⟨rfl, hp, hc⟩
  | rxLenHi _ | rxLenLo _ => simp [RowApplies, IsRowOf, Instr.wellFormed, RxContext.admits, encode, word]
  | rxBody _ | rxComplete _ | rxForcedReset _ =>
    simp [RowApplies, IsRowOf, Instr.wellFormed, RxContext.admits, encode, word, and_assoc, and_comm, and_left_comm]
  | step _ | encode _ _ | reset | ftRxpkt | ftTxstat | ftTxreq | ftUnknown _ => simp [RowApplies, IsRowOf, encode]

/-- Settles O4: the row is the one the decoder reads, any other row that applies is read from the same word, and where a row
applies it does what STEP does. -/
theorem stepRunsTheOneRowThatApplies : Obligations.StepRunsTheOneRowThatApplies := by
  unfold Obligations.StepRunsTheOneRowThatApplies
  intro s b
  have row := (rowApplies_iff s b _).mpr (decodeTransition_isRowOf s.rxContext (s.transitionWord b))
  refine ⟨_, row, fun j other => ?_, rfl, (exec_step b s).trans (exec_row row).symm⟩
  cases ((rowApplies_iff s b j).mp other).decode_eq
  rfl

/-- Settles O1: the decoder evaluates each word; only the AccumulatingBody words need a context. -/
theorem specWordsDecodeAsTheTablesSay : Obligations.SpecWordsDecodeAsTheTablesSay := by
  unfold Obligations.SpecWordsDecodeAsTheTablesSay
  exact ⟨fun _ => rfl, fun _ => rfl, fun _ => rfl, fun _ => rfl, fun _ => rfl, fun _ => rfl, fun _ => rfl, fun _ => rfl,
    rfl, rfl, rfl, rfl, fun _ => rfl, fun _ => rfl, fun _ => rfl, fun _ => rfl⟩

end Sys2Proof.Machine
end

section
/-! PROOFS. Rows run where the table does not select them (log 9). -/

namespace Sys2Proof.Machine

open Sys2Proof

/-- A transition row is refused in a state in which it applies to no byte. -/
theorem exec_refused_of_no_row {s : State} {i : Instr} (transition : ∃ t b, RowApplies t b i)
    (out : ∀ b, ¬ RowApplies s b i) : exec i s = .refused .rowNotSelected := by
  obtain ⟨t, b, row⟩ := transition
  cases i with
  | rxStart => exact if_neg fun hp => out 0x7E ⟨hp, rfl⟩
  | rxIgnore c => exact if_neg fun selected => out c ⟨rfl, selected⟩
  | rxLenHi c => exact if_neg fun hp => out c ⟨rfl, hp⟩
  | rxLenLo c => exact if_neg fun hp => out c ⟨rfl, hp⟩
  | rxBody c => exact if_neg fun ⟨hp, cond⟩ => out c ⟨rfl, hp, s.bodyRow_iff.mp cond⟩
  | rxComplete c => exact if_neg fun ⟨hp, cond⟩ => out c ⟨rfl, hp, s.completeRow_iff.mp cond⟩
  | rxForcedReset c => exact if_neg fun ⟨hp, cond⟩ => out c ⟨rfl, hp, s.forcedRow_iff.mp cond⟩
  | step _ | encode _ _ | reset | ftRxpkt | ftTxstat | ftTxreq | ftUnknown _ => exact row.elim

/-- A frame-type row is refused where the completed frame is not its own. -/
theorem exec_refused_of_no_arm {s : State} {i : Instr} (frameType : ∃ t, ArmApplies t i) (out : ¬ ArmApplies s i) :
    exec i s = .refused .rowNotSelected := by
  obtain ⟨t, arm⟩ := frameType
  cases i with
  | ftRxpkt => exact execFtRxpkt_refused out
  | ftTxstat => exact execFtTxstat_refused out
  | ftTxreq => exact execFtTxreq_refused out
  | ftUnknown _ => exact execFtUnknown_refused out
  | step _ | encode _ _ | reset => exact arm.elim
  | rxStart | rxIgnore _ | rxLenHi _ | rxLenLo _ | rxBody _ | rxComplete _ | rxForcedReset _ => exact arm.elim

/-- Settles O5, the transition rows and the frame-type rows each by a lemma over the rows. -/
theorem rowsOutOfPlaceAreRefused : Obligations.RowsOutOfPlaceAreRefused := by
  unfold Obligations.RowsOutOfPlaceAreRefused
  exact ⟨fun _ _ => exec_refused_of_no_row, fun _ _ => exec_refused_of_no_arm⟩

end Sys2Proof.Machine
end

section
/-! PROOFS. A transaction that stands next at the command port (30_encoding.md R66, R73). -/

namespace Sys2Proof.Machine

open Sys2Proof

/-- A step of a legally built block runs the transaction that stands next, or refuses it as the decoder rejects it. -/
theorem step_of_command {s : State} {c : CmdWord} {ts : List Turn} (legal : s.params.Legal)
    (next : s.turns = .command c :: ts) :
    (∀ i, decodeCommand c = .ok i → step s = exec i { s with turns := ts }) ∧
    (∀ e, decodeCommand c = .error e → step s = .refused (refusalOf e)) := by
  have taken : nextCommand s = (some c, { s with turns := ts }) := by simp only [nextCommand, next]
  constructor <;> intro _ decoded <;> simp only [step, if_pos legal, taken, decoded]

/-- Settles O6: the decoder reads a command without its context. -/
theorem stepRunsTheDecodedCommand : Obligations.StepRunsTheDecodedCommand := by
  unfold Obligations.StepRunsTheDecodedCommand
  exact fun _ _ _ i legal next decoded => (step_of_command legal next).1 i decoded

/-- The decoder rejects selector 0b11 whatever the operand ports carry. -/
theorem decodeCommand_reserved {c : CmdWord} (sel : c.sel = 0b11) : decodeCommand c = .error .reservedSelector := by
  simp [decodeCommand, sel]

/-- Settles O7: `step` turns the rejection into its refusal. -/
theorem reservedSelectorIsRefused : Obligations.ReservedSelectorIsRefused := by
  unfold Obligations.ReservedSelectorIsRefused
  exact fun _ _ _ legal next sel => (step_of_command legal next).2 _ (decodeCommand_reserved sel)

end Sys2Proof.Machine
end

section
/-! PROOFS. The fields of a frame: the length (30_encoding.md R61), the checksum (R72), and the bound on a delivered payload
(R70). -/

namespace Sys2Proof.Machine

open Sys2Proof

/-- The low length byte completes `dlen`, whether the length is accepted or not (41_decoder.md R124). -/
theorem stepped_dlen_of_low {s : State} (b : Byte) (hp : s.phase = .awaitingLengthLow) :
    (stepped b s).dlen = dlenOrLow s.dlen b := by
  by_cases rejected : (dlenOrLow s.dlen b).toNat + 1 > s.params.rxBufCap ∨ (dlenOrLow s.dlen b).toNat < s.params.minLen
  · rw [stepped_low_discard hp rejected]; rfl
  · rw [stepped_low_accept hp rejected]; rfl

/-- Settles O16: the two length bytes leave `dlenOrLow (dlenOfHigh hi) lo`. -/
theorem lengthIsAssembledBigEndian : Obligations.LengthIsAssembledBigEndian := by
  unfold Obligations.LengthIsAssembledBigEndian
  intro s hi lo hp
  have high := stepped_high hi hp
  have low : (stepped hi s).phase = .awaitingLengthLow := by rw [high]; rfl
  have dlen : (stepped hi s).dlen = dlenOfHigh hi := by rw [high]; rfl
  refine ⟨stepped lo (stepped hi s), feed_eq [hi, lo] s, ?_⟩
  rw [stepped_dlen_of_low lo low, dlen, dlenOrLow_toNat]

/-- A frame-type row applies only to a completed, valid frame. -/
theorem ArmApplies.holdsValidFrame {s : State} {i : Instr} (arm : ArmApplies s i) : HoldsValidFrame s := by
  cases i with
  | ftRxpkt | ftTxstat | ftTxreq | ftUnknown _ => exact arm.1
  | step _ | encode _ _ | reset => exact arm.elim
  | rxStart | rxIgnore _ | rxLenHi _ | rxLenLo _ | rxBody _ | rxComplete _ | rxForcedReset _ => exact arm.elim

/-- A payload that DISPATCH delivers is the frame without the 12 bytes of its header and its checksum byte, and the frame fits
in the buffer. -/
theorem dispatched_payload_bounded {s : State} (valid : HoldsValidFrame s) {p : List Byte}
    (out : (dispatched s).frameOut = some (.receivedData p)) : p.length + 13 ≤ s.params.rxBufCap := by
  obtain ⟨count, room, -⟩ := valid
  revert out
  refine dispatched_cases (P := fun t => t.frameOut = some (.receivedData p) → p.length + 13 ≤ s.params.rxBufCap) s
    ?short_rxpkt ?rxpkt ?short_txstat ?txstat ?unknown
  case rxpkt =>
    intro _ long out
    obtain rfl : s.bufSlice 12 s.dlen.toNat = p := by simpa using out
    rw [State.bufSlice_length]
    omega
  all_goals simp +contextual

/-- So is a payload that STEP delivers: only the STEP that completes a frame delivers one. -/
theorem stepped_payload_bounded {b : Byte} {s : State} {p : List Byte}
    (out : (stepped b s).frameOut = some (.receivedData p)) : p.length + 13 ≤ s.params.rxBufCap := by
  revert out
  refine stepped_cases (P := fun t => t.frameOut = some (.receivedData p) → p.length + 13 ≤ s.params.rxBufCap) b s ?start
    ?ignore ?high ?low_discard ?low_accept ?forced ?body ?dispatch ?mismatch
  case dispatch =>
    rintro ⟨-, count, room⟩ valid
    exact dispatched_payload_bounded (completedBy_holdsValidFrame count room valid)
  all_goals simp +contextual

@[simp] theorem encoded_frameOut (addr : Addr64) (payload : List Byte) (s : State) :
    (encoded addr payload s).frameOut = none := by
  unfold encoded; split_ifs <;> simp

/-- Settles O29: ENCODE and RESET output no frame, and what STEP and DISPATCH deliver fits. -/
theorem deliveredPayloadIsBounded : Obligations.DeliveredPayloadIsBounded := by
  unfold Obligations.DeliveredPayloadIsBounded
  intro i s t p h out
  rcases exec_next_cases h with ⟨b, rfl, -⟩ | ⟨addr, payload, -, rfl⟩ | ⟨-, rfl⟩ | ⟨arm, rfl⟩
  · exact stepped_payload_bounded out
  · simp at out
  · simp at out
  · exact dispatched_payload_bounded arm.holdsValidFrame out

/-- The checksum byte is `0xFF − sum8` of the body: the difference fits in a byte. -/
theorem checksum_toNat (body : List Byte) : (checksum body).toNat = 0xFF - sum8 body := by
  rw [checksum, BitVec.toNat_ofNat]
  omega

/-- Both summands are below 256, so their sum is 0xFF modulo 256 only where it is 0xFF. -/
theorem sum8_add_mod_eq_iff (body : List Byte) (c : Byte) :
    (sum8 body + c.toNat) % 256 = 0xFF ↔ c.toNat = 0xFF - sum8 body := by
  have sum_lt := sum8_lt body
  have byte_lt := c.isLt
  omega

/-- Settles O52: the one solution is the byte the encoder writes. -/
theorem checksumByteIsUnique : Obligations.ChecksumByteIsUnique := by
  unfold Obligations.ChecksumByteIsUnique
  intro body c
  refine ⟨sum8_add_mod_eq_iff body c, ?_, checksum_toNat body⟩
  rw [checksumValid_iff, sum8_add_mod_eq_iff, ← checksum_toNat, BitVec.toNat_inj]

end Sys2Proof.Machine
end

section
/-! PROOFS. ENCODE (40_encoder.md R100 to R106): the size check decides between the two results (`encoded_of_tooLarge`,
`encoded_of_fits`), and the frame it hands over is consistent whatever the body. -/

namespace Sys2Proof.Machine

open Sys2Proof

/-- ENCODE of a payload that fails the size check reports the error and hands nothing over (40_encoder.md R101). -/
theorem encoded_of_tooLarge {addr : Addr64} {payload : List Byte} {s : State}
    (too_large : payload.length + 18 > s.params.txMaxFrame) :
    encoded addr payload s = s.clearOutputs.setEncResult (.err .payloadTooLarge) :=
  if_pos too_large

/-- ENCODE of a payload that passes reports the frame and hands the same bytes over in one write (40_encoder.md R105). -/
theorem encoded_of_fits {addr : Addr64} {payload : List Byte} {s : State}
    (fits : payload.length + 18 ≤ s.params.txMaxFrame) : encoded addr payload s =
      (s.clearOutputs.setEncResult (.ok (frameBytes (txBody addr payload)))).transportWrite
        (frameBytes (txBody addr payload)) := by
  rw [← envelope_eq_frameBytes]
  exact if_neg (Nat.not_lt.mpr fits)

theorem encoded_encResult_err_iff (addr : Addr64) (payload : List Byte) (s : State) :
    (encoded addr payload s).encResult = some (.err .payloadTooLarge) ↔
      payload.length + 18 > s.params.txMaxFrame := by
  by_cases too_large : payload.length + 18 > s.params.txMaxFrame
  · simp [encoded_of_tooLarge too_large, too_large]
  · simp [encoded_of_fits (Nat.not_lt.mp too_large), too_large]

theorem encoded_encResult_ok_iff (addr : Addr64) (payload : List Byte) (s : State) (f : List Byte) :
    (encoded addr payload s).encResult = some (.ok f) ↔
      payload.length + 18 ≤ s.params.txMaxFrame ∧ f = frameBytes (txBody addr payload) := by
  by_cases too_large : payload.length + 18 > s.params.txMaxFrame
  · simp [encoded_of_tooLarge too_large, Nat.not_le.mpr too_large]
  · simp [encoded_of_fits (Nat.not_lt.mp too_large), Nat.not_lt.mp too_large, eq_comm]

/-- No decoder output stands after ENCODE (log 4). -/
theorem encoded_noOutput (addr : Addr64) (payload : List Byte) (s : State) : NoOutput (encoded addr payload s) := by
  rw [encoded_eq]
  exact ⟨rfl, rfl, rfl⟩

/-- Settles O33: the frame is `frameBytes` of `txBody`, whose bytes `txBody_eq` lists. -/
theorem encodeBuildsTheTransmitRequestFrame : Obligations.EncodeBuildsTheTransmitRequestFrame := by
  unfold Obligations.EncodeBuildsTheTransmitRequestFrame
  intro s addr payload
  refine ⟨encoded addr payload s, exec_encode addr payload s, encoded_sameDecoder addr payload s,
    (encoded_encResult_err_iff addr payload s).mpr, fun fits => ⟨txBody addr payload, txBody_eq addr payload, ?_⟩⟩
  exact (encoded_encResult_ok_iff addr payload s _).mpr ⟨fits, rfl⟩

/-- Settles O34: both results are told apart by the size check, and the default bound puts it between 110 and 111 bytes. -/
theorem encodeSizeCheckAndHandOff : Obligations.EncodeSizeCheckAndHandOff := by
  unfold Obligations.EncodeSizeCheckAndHandOff
  intro s addr payload t next
  cases (exec_encode addr payload s).symm.trans next
  have err_iff := encoded_encResult_err_iff addr payload s
  refine ⟨err_iff, ?handed_over, ?nothing, ?default_bound, encoded_noOutput addr payload s⟩
  case handed_over =>
    intro f ok
    obtain ⟨fits, rfl⟩ := (encoded_encResult_ok_iff addr payload s f).mp ok
    rw [encoded_of_fits fits, frameBytes_length, txBody_length]
    exact ⟨rfl, rfl⟩
  case nothing =>
    intro err
    rw [encoded_of_tooLarge (err_iff.mp err)]
    rfl
  case default_bound =>
    intro params
    have bound : s.params.txMaxFrame = 128 := congrArg Config.Params.txMaxFrame params
    rw [err_iff, bound]
    omega

/-- The two length bytes of a frame read back as the number they were cut from, where it fits in 16 bits
(30_encoding.md R61). -/
theorem lengthBytes_toNat {n : Nat} (h : n < 65536) :
    (BitVec.ofNat 8 (n / 256)).toNat * 256 + (BitVec.ofNat 8 n).toNat = n := by
  simp only [BitVec.toNat_ofNat]
  omega

/-- Every frame of a body whose length fits in 16 bits carries that length and a checksum that validates it
(30_encoding.md R60, R61, R72). -/
theorem frameBytes_consistent {body : List Byte} (h : body.length < 65536) :
    ∃ hi lo c, frameBytes body = 0x7E :: hi :: lo :: (body ++ [c]) ∧
      hi.toNat * 256 + lo.toNat = (frameBytes body).length - 4 ∧ (sum8 body + c.toNat) % 256 = 0xFF := by
  refine ⟨_, _, checksum body, rfl, ?length, (sum8_add_mod_eq_iff body _).mpr (checksum_toNat body)⟩
  case length => rw [frameBytes_length, Nat.add_sub_cancel, lengthBytes_toNat h]

/-- Settles O35: the bound of a legally built block keeps the body's length in 16 bits (00_scope.md R6). -/
theorem encodedFrameIsConsistent : Obligations.EncodedFrameIsConsistent := by
  unfold Obligations.EncodedFrameIsConsistent
  intro s addr payload t f legal next ok
  cases (exec_encode addr payload s).symm.trans next
  obtain ⟨fits, rfl⟩ := (encoded_encResult_ok_iff addr payload s f).mp ok
  obtain ⟨⟨-, bound⟩, -⟩ := legal
  have short : (txBody addr payload).length < 65536 := by rw [txBody_length]; omega
  obtain ⟨hi, lo, c, bytes, length, valid⟩ := frameBytes_consistent short
  exact ⟨hi, lo, txBody addr payload, c, bytes, length, valid⟩

end Sys2Proof.Machine
end

section
/-! PROOFS. The transition rows (41_decoder.md R121 to R128). Where a row applies it does what STEP does with the byte
(`exec_row`), and the law of `stepped` for the row says what that is. -/

namespace Sys2Proof.Machine

open Sys2Proof

/-- Settles O12, from what STEP leaves after a start marker. -/
theorem rxStartOpensAFrame : Obligations.RxStartOpensAFrame := by
  unfold Obligations.RxStartOpensAFrame
  intro s hp
  refine ⟨stepped 0x7E s, exec_row ⟨hp, rfl⟩, exec_step 0x7E s, ?_⟩
  rw [stepped_start hp]
  exact ⟨rfl, rfl, rfl, rfl, rfl⟩

/-- A byte other than the start marker leaves DecoderState alone in AwaitingStart (41_decoder.md R122). -/
theorem stepped_sameDecoder_of_noise {s : State} {b : Byte} (hp : s.phase = .awaitingStart) (hb : b ≠ 0x7E) :
    SameDecoder s (stepped b s) :=
  exec_step_sameDecoder_of_noise (exec_step b s) hp hb

theorem stepped_frameOut_of_noise {s : State} {b : Byte} (hp : s.phase = .awaitingStart) (hb : b ≠ 0x7E) :
    (stepped b s).frameOut = none := by
  rw [stepped_ignore hp hb, State.clearOutputs_frameOut]

/-- Settles O13: DecoderState stays, and the outputs are absent. -/
theorem rxIgnoreChangesNothing : Obligations.RxIgnoreChangesNothing := by
  unfold Obligations.RxIgnoreChangesNothing
  intro s b hp hb
  exact ⟨stepped b s, exec_row ⟨rfl, hp, hb⟩, exec_step b s, stepped_sameDecoder_of_noise hp hb,
    stepped_frameOut_of_noise hp hb⟩

/-- Settles O14: `dlen` is `dlenOfHigh b`, whose two halves are laws of the operand form. -/
theorem rxLenHiTakesTheHighByte : Obligations.RxLenHiTakesTheHighByte := by
  unfold Obligations.RxLenHiTakesTheHighByte
  intro s b hp
  refine ⟨stepped b s, exec_row ⟨rfl, hp⟩, exec_step b s, ?_⟩
  rw [stepped_high b hp]
  exact ⟨rfl, dlenOfHigh_high b, dlenOfHigh_low b, rfl, rfl, rfl, rfl⟩

/-- Settles O15: the acceptance test decides between the two outcomes, and neither of them has the other's phase, so with the
spec's parameters AccumulatingBody is the test's own range. -/
theorem rxLenLoAcceptsOrDiscards : Obligations.RxLenLoAcceptsOrDiscards := by
  unfold Obligations.RxLenLoAcceptsOrDiscards
  intro s b hp
  refine ⟨stepped b s, exec_row ⟨rfl, hp⟩, exec_step b s, ?_⟩
  have defaults (params : s.params = Config.defaultParams) : s.params.rxBufCap = 128 ∧ s.params.minLen = 7 := by
    rw [params]; exact ⟨rfl, rfl⟩
  by_cases rejected : (dlenOrLow s.dlen b).toNat + 1 > s.params.rxBufCap ∨ (dlenOrLow s.dlen b).toNat < s.params.minLen
  · rw [stepped_low_discard hp rejected]
    refine ⟨rfl, rfl, rfl, ⟨rfl, rfl, rfl⟩, fun _ => ⟨rfl, rfl⟩, fun accepted => absurd rejected accepted,
      fun params => ?_⟩
    obtain ⟨cap, minLen⟩ := defaults params
    simp only [State.enterDiscard_phase, State.enterDiscard_dlen, State.setDlen_dlen, reduceCtorEq, false_iff]
    omega
  · rw [stepped_low_accept hp rejected]
    refine ⟨rfl, rfl, rfl, ⟨rfl, rfl, rfl⟩, fun discarded => absurd discarded rejected, fun _ => ⟨rfl, rfl⟩,
      fun params => ?_⟩
    obtain ⟨cap, minLen⟩ := defaults params
    simp only [State.setPhase_phase, State.setPhase_dlen, State.setDlen_dlen, true_iff]
    omega

/-- Settles O17: the row appends the byte to the buffer. -/
theorem rxBodyAppendsTheByte : Obligations.RxBodyAppendsTheByte := by
  unfold Obligations.RxBodyAppendsTheByte
  intro s b hp more room
  have lt : s.count < s.dlen.toNat := by omega
  refine ⟨stepped b s, exec_row ⟨rfl, hp, lt, room⟩, exec_step b s, ?_⟩
  rw [stepped_body b hp lt room]
  exact ⟨State.appendByte_bufRead_count s.clearOutputs b,
    fun _ other => State.appendByte_bufRead_other s.clearOutputs b other, rfl, hp, rfl, rfl⟩

/-- The row a type byte selects applies to the valid frame that carries it (30_encoding.md R65). -/
theorem HoldsValidFrame.armApplies {s : State} (valid : HoldsValidFrame s) :
    ArmApplies s (decodeFrameType (s.bufRead 0)) := by
  unfold decodeFrameType
  split_ifs with rxpkt txstat txreq
  · exact ⟨valid, rxpkt⟩
  · exact ⟨valid, txstat⟩
  · exact ⟨valid, txreq⟩
  · exact ⟨valid, rfl, rxpkt, txstat⟩

/-- Every STEP that completes a frame stores the byte and returns to AwaitingStart, whatever the validation says
(41_decoder.md R126). -/
theorem Completing.stepped_fields {s : State} (complete : Completing s) (b : Byte) :
    (stepped b s).phase = .awaitingStart ∧ (stepped b s).count = s.dlen.toNat + 1 ∧ (stepped b s).dlen = s.dlen ∧
      (stepped b s).buf = (completedBy s b).buf := by
  have count : (completedBy s b).count = s.dlen.toNat + 1 := congrArg (· + 1) complete.2.1
  by_cases valid : (sum8 (s.bufSlice 0 s.dlen.toNat) + b.toNat) % 256 = 0xFF
  · rw [stepped_dispatch complete valid]
    exact ⟨dispatched_phase _, (dispatched_count _).trans count, dispatched_dlen _, dispatched_buf _⟩
  · rw [stepped_mismatch complete valid]
    exact ⟨rfl, count, rfl, rfl⟩

/-- Settles O18: a wrong sum is discarded, and a right one makes a valid frame, whose arm does what DISPATCH does. -/
theorem rxCompleteValidatesThenDispatches : Obligations.RxCompleteValidatesThenDispatches := by
  unfold Obligations.RxCompleteValidatesThenDispatches
  intro s b hp last room
  have eq : s.count = s.dlen.toNat := by omega
  have complete : Completing s := ⟨hp, eq, room⟩
  obtain ⟨phase, count, dlen, buf⟩ := complete.stepped_fields b
  have read (a : Nat) : (stepped b s).bufRead a = (completedBy s b).bufRead a := State.bufRead_congr buf a
  refine ⟨stepped b s, exec_row ⟨rfl, complete⟩, exec_step b s, phase, count, dlen, ?stored, ?others, ?mismatch, ?arm⟩
  case stored => rw [read, eq, completedBy_last eq]
  case others => exact fun a other => (read a).trans (completedBy_bufRead_other s b other)
  case mismatch =>
    intro invalid
    rw [stepped_mismatch complete invalid]
    exact ⟨⟨rfl, rfl, rfl⟩, rfl⟩
  case arm =>
    intro valid
    rw [read, stepped_dispatch complete valid]
    exact exec_arm (completedBy_holdsValidFrame eq room valid).armApplies

/-- Settles O19: entry of the INVARIANT_RESET condition writes the phase and the outputs alone. -/
theorem rxForcedResetAbandonsTheFrame : Obligations.RxForcedResetAbandonsTheFrame := by
  unfold Obligations.RxForcedResetAbandonsTheFrame
  intro s b hp violated
  refine ⟨stepped b s, exec_row ⟨rfl, hp, violated⟩, exec_step b s, ?_⟩
  rw [stepped_forced b hp violated]
  exact ⟨rfl, rfl, rfl, rfl, ⟨rfl, rfl, rfl⟩, rfl⟩

end Sys2Proof.Machine
end

section
/-! PROOFS. STEP as a whole (41_decoder.md R120, R130): it is total, and its phase graph. -/

namespace Sys2Proof.Machine

open Sys2Proof

/-- STEP leaves `count`, adds one to it, or zeroes it (10_state.md R23). -/
theorem stepped_count_cases (b : Byte) (s : State) :
    (stepped b s).count = s.count ∨ (stepped b s).count = s.count + 1 ∨ (stepped b s).count = 0 := by
  refine stepped_cases (P := fun t => t.count = s.count ∨ t.count = s.count + 1 ∨ t.count = 0) b s ?start ?ignore ?high
    ?low_discard ?low_accept ?forced ?body ?dispatch ?mismatch
  case start => exact fun _ _ => .inr (.inr rfl)
  case body | mismatch => intros; exact .inr (.inl rfl)
  case dispatch => exact fun _ _ => .inr (.inl (dispatched_count _))
  all_goals intros; exact .inl rfl

/-- Settles O24: STEP answers a next state from every state, and each clause is a law of that state. -/
theorem stepConsumesEveryByteFromEveryState : Obligations.StepConsumesEveryByteFromEveryState := by
  unfold Obligations.StepConsumesEveryByteFromEveryState
  exact fun s b => ⟨stepped b s, exec_step b s, stepped_params b s, stepped_encResult b s, stepped_source b s,
    stepped_sink b s, stepped_turns b s, fun _ => stepped_bufRead_of_not_stored, stepped_count_cases b s⟩

/-- The phase graph of 41_decoder.md: the phase after a STEP of `b` in `s`. -/
def nextPhase (b : Byte) (s : State) : Phase :=
  match s.phase with
  | .awaitingStart => if b = 0x7E then .awaitingLengthHigh else .awaitingStart
  | .awaitingLengthHigh => .awaitingLengthLow
  | .awaitingLengthLow =>
    if (dlenOrLow s.dlen b).toNat + 1 ≤ s.params.rxBufCap ∧ s.params.minLen ≤ (dlenOrLow s.dlen b).toNat then
      .accumulatingBody
    else .awaitingStart
  | .accumulatingBody =>
    if s.count < s.dlen.toNat ∧ s.count < s.params.rxBufCap then .accumulatingBody else .awaitingStart

/-- STEP moves along the phase graph (41_decoder.md R121 to R128). -/
theorem stepped_phase (b : Byte) (s : State) : (stepped b s).phase = nextPhase b s := by
  refine stepped_cases (P := fun t => t.phase = nextPhase b s) b s ?start ?ignore ?high ?low_discard ?low_accept ?forced
    ?body ?dispatch ?mismatch
  case start => intro hp hb; simp [nextPhase, hp, hb]
  case ignore => intro hp hb; simp only [nextPhase, hp]; exact hp.trans (if_neg hb).symm
  case high => intro hp; simp [nextPhase, hp]
  case low_discard => intro hp rejected; simp only [nextPhase, hp]; exact (if_neg (by omega)).symm
  case low_accept => intro hp accepted; simp only [nextPhase, hp]; exact (if_pos (by omega)).symm
  case forced => intro hp violated; simp only [nextPhase, hp]; exact (if_neg (by omega)).symm
  case body => intro hp lt room; simp only [nextPhase, hp]; exact hp.trans (if_pos ⟨lt, room⟩).symm
  case dispatch => rintro ⟨hp, eq, -⟩ -; simp [nextPhase, hp, eq]
  case mismatch => rintro ⟨hp, eq, -⟩ -; simp [nextPhase, hp, eq]

/-- Only a start marker in AwaitingStart opens a frame. -/
theorem nextPhase_eq_awaitingLengthHigh_iff (b : Byte) (s : State) :
    nextPhase b s = .awaitingLengthHigh ↔ s.phase = .awaitingStart ∧ b = 0x7E := by
  unfold nextPhase
  cases s.phase <;> simp [ite_eq_iff]

theorem nextPhase_eq_awaitingLengthLow_iff (b : Byte) (s : State) :
    nextPhase b s = .awaitingLengthLow ↔ s.phase = .awaitingLengthHigh := by
  unfold nextPhase
  cases s.phase <;> simp [ite_eq_iff]

/-- The body of a frame is entered where its length is accepted, and left with its checksum byte. -/
theorem nextPhase_eq_accumulatingBody_iff (b : Byte) (s : State) :
    nextPhase b s = .accumulatingBody ↔
      (s.phase = .awaitingLengthLow ∧ (dlenOrLow s.dlen b).toNat + 1 ≤ s.params.rxBufCap ∧
        s.params.minLen ≤ (dlenOrLow s.dlen b).toNat) ∨
      (s.phase = .accumulatingBody ∧ s.count < s.dlen.toNat ∧ s.count < s.params.rxBufCap) := by
  unfold nextPhase
  cases s.phase <;> simp [ite_eq_iff]

/-- Settles O30: each phase other than AwaitingStart has the edges into it that the graph draws. -/
theorem phaseGraphOfStep : Obligations.PhaseGraphOfStep := by
  unfold Obligations.PhaseGraphOfStep
  intro s b t next
  cases (exec_step b s).symm.trans next
  rw [stepped_phase]
  exact ⟨nextPhase_eq_awaitingLengthHigh_iff b s, nextPhase_eq_awaitingLengthLow_iff b s,
    nextPhase_eq_accumulatingBody_iff b s, by rw [State.parsingInProgress, stepped_phase, bne_iff_ne]⟩

end Sys2Proof.Machine
end

section
/-! PROOFS. Streams (41_decoder.md R129 to R132). STEP* over a stream is STEP* over its parts, so a frame is followed through
its marker and length bytes (`feed_header`), its body (O44) and its checksum byte (`feed_body_and_last`). -/

namespace Sys2Proof.Machine

open Sys2Proof

@[simp] theorem feed_nil (s : State) : feed [] s = .next s := rfl

@[simp] theorem frameTrace_nil (s : State) : frameTrace [] s = [] := rfl

theorem feed_cons (b : Byte) (bs : List Byte) (s : State) : feed (b :: bs) s = feed bs (stepped b s) := by
  rw [feed, exec_step]

/-- STEP* over two streams in a row is STEP* over the second from where the first leads. -/
theorem feed_append {bs : List Byte} {s t : State} (first : feed bs s = .next t) (cs : List Byte) :
    feed (bs ++ cs) s = feed cs t := by
  cases (feed_eq bs s).symm.trans first
  rw [feed_eq, feed_eq, List.foldl_append]

theorem frameTrace_append_of_feed {bs : List Byte} {s t : State} (first : feed bs s = .next t) (cs : List Byte) :
    frameTrace (bs ++ cs) s = frameTrace bs s ++ frameTrace cs t := by
  cases (feed_eq bs s).symm.trans first
  exact frameTrace_append bs cs s

/-- STEP* does not change the parameters (10_state.md R28). -/
theorem feed_params {bs : List Byte} {s t : State} (next : feed bs s = .next t) : t.params = s.params := by
  induction bs generalizing s with
  | nil => cases next; rfl
  | cons b bs ih => rw [feed_cons] at next; rw [ih next, stepped_params]

theorem SameDecoder.trans {s t u : State} (st : SameDecoder s t) (tu : SameDecoder t u) : SameDecoder s u := by
  obtain ⟨⟨phase, dlen, count⟩, buf⟩ := st
  obtain ⟨⟨phase', dlen', count'⟩, buf'⟩ := tu
  exact ⟨⟨phase'.trans phase, dlen'.trans dlen, count'.trans count⟩, buf'.trans buf⟩

/-- Settles O43, by induction on the bytes: each leaves the decoder in AwaitingStart for the next. -/
theorem noiseIsIgnored : Obligations.NoiseIsIgnored := by
  unfold Obligations.NoiseIsIgnored
  intro bs
  induction bs with
  | nil => exact fun s _ _ => ⟨s, rfl, ⟨⟨rfl, rfl, rfl⟩, rfl⟩, rfl⟩
  | cons b bs ih =>
    intro s hp noise
    obtain ⟨hb, noise⟩ := List.forall_mem_cons.mp noise
    have same := stepped_sameDecoder_of_noise hp hb
    have phase : (stepped b s).phase = .awaitingStart := by rw [stepped_ignore hp hb]; exact hp
    obtain ⟨t, next, same', trace⟩ := ih (stepped b s) phase noise
    refine ⟨t, (feed_cons b bs s).trans next, same.trans same', ?_⟩
    rw [frameTrace_cons, stepped_frameOut_of_noise hp hb, trace, List.length_cons, List.replicate_succ]

/-- Settles O44, by induction on the bytes: the first is appended at `count`, and the others are stored above it. -/
theorem bodyBytesAreStoredAndCounted : Obligations.BodyBytesAreStoredAndCounted := by
  unfold Obligations.BodyBytesAreStoredAndCounted
  intro bs
  induction bs with
  | nil => intro s hp _ _; exact ⟨s, rfl, hp, rfl, rfl, by simp [State.bufSlice], fun _ _ => rfl, rfl⟩
  | cons b bs ih =>
    intro s hp fits room
    rw [List.length_cons] at fits
    have append := stepped_body b hp (by omega) (by omega)
    obtain ⟨t, next, phase, dlen, count, slice, frame, trace⟩ := ih (s.clearOutputs.appendByte b) hp
      (show s.count + 1 + bs.length ≤ s.dlen.toNat by omega) room
    simp only [State.appendByte_count, State.appendByte_dlen, State.clearOutputs_count, State.clearOutputs_dlen]
      at dlen count slice frame
    have stored : t.bufRead s.count = b :=
      (frame s.count (.inl (by omega))).trans (State.appendByte_bufRead_count s.clearOutputs b)
    have length : s.count + (bs.length + 1) = s.count + 1 + bs.length := by omega
    refine ⟨t, by rw [feed_cons, append, next], phase, dlen, by rw [count, List.length_cons, length], ?slice, ?frame,
      ?trace⟩
    case slice => rw [List.length_cons, length, State.bufSlice_cons _ (by omega), stored, slice]
    case frame =>
      intro a other
      rw [List.length_cons] at other
      have ne_count : a ≠ s.count := by omega
      exact (frame a (by omega)).trans (State.appendByte_bufRead_other s.clearOutputs b ne_count)
    case trace => rw [frameTrace_cons, append, trace, List.length_cons, List.replicate_succ]; rfl

/-- The missing body bytes and one byte more: the last byte is the one that completes the frame, and every other is stored in
order and yields nothing. -/
theorem feed_body_and_last {bs : List Byte} {s : State} (c : Byte) (hp : s.phase = .accumulatingBody)
    (length : s.count + bs.length = s.dlen.toNat) (room : s.dlen.toNat < s.params.rxBufCap) :
    ∃ u, feed (bs ++ [c]) s = .next (stepped c u) ∧ Completing u ∧ u.params = s.params ∧ u.dlen = s.dlen ∧
      u.bufSlice s.count s.dlen.toNat = bs ∧
      frameTrace (bs ++ [c]) s = List.replicate bs.length none ++ [(stepped c u).frameOut] := by
  obtain ⟨u, next, phase, dlen, count, slice, -, trace⟩ := bodyBytesAreStoredAndCounted bs s hp length.le room
  have params := feed_params next
  rw [length] at count slice
  refine ⟨u, by rw [feed_append next, feed_cons, feed_nil],
    ⟨phase, by rw [count, dlen], by rw [count, params]; exact room⟩, params, dlen, slice, ?_⟩
  rw [frameTrace_append_of_feed next, trace, frameTrace_cons, frameTrace_nil]

/-- Settles O45: under the invariant the declared length fits in the buffer and is not reached yet, so a last byte is
missing. -/
theorem declaredLengthAlwaysEndsTheFrame : Obligations.DeclaredLengthAlwaysEndsTheFrame := by
  unfold Obligations.DeclaredLengthAlwaysEndsTheFrame
  intro bs s inv hp length
  obtain ⟨-, fits, le⟩ := inv.body hp
  rcases List.eq_nil_or_concat' bs with rfl | ⟨body, c, rfl⟩
  · rw [List.length_nil] at length; omega
  rw [List.length_append, List.length_singleton] at length ⊢
  obtain ⟨u, next, complete, -, dlen, -, trace⟩ :=
    feed_body_and_last c hp (by omega : s.count + body.length = s.dlen.toNat) fits
  obtain ⟨phase, count, dlen', -⟩ := complete.stepped_fields c
  exact ⟨stepped c u, next, phase, dlen'.trans dlen, by rw [count, dlen], trace⟩

/-- The start marker and the two length bytes of a frame with `n` body bytes (30_encoding.md R60, R61). -/
def frameHeader (n : Nat) : List Byte := [0x7E, BitVec.ofNat 8 (n / 256), BitVec.ofNat 8 n]

theorem frameBytes_eq (body : List Byte) : frameBytes body = frameHeader body.length ++ (body ++ [checksum body]) :=
  List.append_assoc _ _ _

/-- The start marker and the two bytes of an acceptable length, from AwaitingStart, open the body of a frame of that length
(41_decoder.md R121, R123, R124). -/
theorem feed_header {s : State} {n : Nat} (hp : s.phase = .awaitingStart) (short : n < 65536)
    (minLen : s.params.minLen ≤ n) (fits : n + 1 ≤ s.params.rxBufCap) :
    ∃ u, feed (frameHeader n) s = .next u ∧ u.phase = .accumulatingBody ∧ u.dlen.toNat = n ∧ u.count = 0 ∧
      u.params = s.params ∧ frameTrace (frameHeader n) s = List.replicate 3 none := by
  unfold frameHeader
  set hi : Byte := BitVec.ofNat 8 (n / 256)
  set lo : Byte := BitVec.ofNat 8 n
  have start := stepped_start hp
  have high := stepped_high (s := stepped 0x7E s) hi (by rw [start]; rfl)
  have dlen : (stepped hi (stepped 0x7E s)).dlen = dlenOfHigh hi := by rw [high]; rfl
  have total : (dlenOrLow (stepped hi (stepped 0x7E s)).dlen lo).toNat = n := by
    rw [dlen, dlenOrLow_toNat, lengthBytes_toNat short]
  have low := stepped_low_accept (s := stepped hi (stepped 0x7E s)) (b := lo) (by rw [high]; rfl)
    (by rw [total, stepped_params, stepped_params]; omega)
  refine ⟨stepped lo (stepped hi (stepped 0x7E s)), feed_eq [0x7E, hi, lo] s, by rw [low]; rfl, by rw [low]; exact total,
    by rw [low, high, start]; rfl, by simp only [stepped_params], ?_⟩
  rw [frameTrace_cons, frameTrace_cons, frameTrace_cons, frameTrace_nil, low, high, start]
  rfl

end Sys2Proof.Machine
end

section
/-! PROOFS. Whole frames (41_decoder.md R127, R129, 42_dispatcher.md R151 to R153): `feed_frame` follows a frame with any body
and any last byte to the STEP that validates it; what that STEP outputs is what the body says where the checksum is valid, and
nothing where it is not. -/

namespace Sys2Proof.Machine

open Sys2Proof

/-- A frame with any body of an acceptable length and any last byte, from AwaitingStart: the last byte completes it with the
body in the buffer, and no byte before it yields anything. -/
theorem feed_frame {s : State} {body : List Byte} (c : Byte) (legal : s.params.Legal) (hp : s.phase = .awaitingStart)
    (minLen : s.params.minLen ≤ body.length) (fits : body.length + 1 ≤ s.params.rxBufCap) :
    ∃ u, feed (frameHeader body.length ++ (body ++ [c])) s = .next (stepped c u) ∧ Completing u ∧
      u.dlen.toNat = body.length ∧ u.bufSlice 0 body.length = body ∧
      frameTrace (frameHeader body.length ++ (body ++ [c])) s =
        List.replicate (body.length + 3) none ++ [(stepped c u).frameOut] := by
  obtain ⟨-, ⟨-, cap⟩, -⟩ := legal
  have short : body.length < 65536 := by omega
  obtain ⟨h, header, phase, dlen, count, params, quiet⟩ := feed_header hp short minLen fits
  obtain ⟨u, next, complete, -, dlen', slice, trace⟩ :=
    feed_body_and_last c phase (by omega : h.count + body.length = h.dlen.toNat) (by rw [params]; omega)
  rw [count, dlen] at slice
  refine ⟨u, (feed_append header _).trans next, complete, by rw [dlen', dlen], slice, ?_⟩
  rw [frameTrace_append_of_feed header, quiet, trace, ← List.append_assoc, List.replicate_append_replicate, Nat.add_comm]

/-- What DISPATCH outputs is what the wire layouts say of the body (30_encoding.md R63, R64, R65). -/
theorem dispatched_frameOut {s : State} (nonempty : 0 < s.dlen.toNat) :
    (dispatched s).frameOut = parsedBody (s.bufSlice 0 s.dlen.toNat) := by
  have head : (s.bufSlice 0 s.dlen.toNat).head? = some (s.bufRead 0) := by rw [State.bufSlice_cons s nonempty]; rfl
  refine dispatched_cases (P := fun t => t.frameOut = parsedBody (s.bufSlice 0 s.dlen.toNat)) s ?short_rxpkt ?rxpkt
    ?short_txstat ?txstat ?unknown
  case short_rxpkt => intro type short; simp [parsedBody, head, type, short]
  case rxpkt => intro type long; simp [parsedBody, head, type, long, State.bufSlice_drop]
  case short_txstat => intro type short; simp [parsedBody, head, type, short]
  case txstat =>
    intro type long
    have status : (s.bufSlice 0 s.dlen.toNat)[5]? = some (s.bufRead 5) := State.bufSlice_getElem? s (by omega)
    simp [parsedBody, head, type, long, status]
  case unknown =>
    intro rxpkt txstat
    rw [State.discard_frameOut, parsedBody, head, if_neg (by simpa using rxpkt), if_neg (by simpa using txstat)]

/-- The STEP that completes a valid frame outputs what its body says. -/
theorem Completing.stepped_frameOut {s : State} {b : Byte} (complete : Completing s) (nonempty : 0 < s.dlen.toNat)
    (valid : (sum8 (s.bufSlice 0 s.dlen.toNat) + b.toNat) % 256 = 0xFF) :
    (stepped b s).frameOut = parsedBody (s.bufSlice 0 s.dlen.toNat) := by
  rw [stepped_dispatch complete valid, dispatched_frameOut (s := completedBy s b) nonempty, completedBy_dlen,
    completedBy_slice complete.2.1]

/-- Completing a frame leaves its body in the buffer. -/
theorem Completing.stepped_body_slice {s : State} (complete : Completing s) (b : Byte) :
    (stepped b s).bufSlice 0 s.dlen.toNat = s.bufSlice 0 s.dlen.toNat := by
  obtain ⟨-, -, -, buf⟩ := complete.stepped_fields b
  rw [State.bufSlice_congr fun a _ _ => State.bufRead_congr buf a, completedBy_slice complete.2.1]

/-- Settles O46: the frame's last byte is the checksum of the body before it, so its STEP outputs what that body says. -/
theorem wholeFrameIsReceivedAtItsLastByte : Obligations.WholeFrameIsReceivedAtItsLastByte := by
  unfold Obligations.WholeFrameIsReceivedAtItsLastByte
  intro s body legal hp minLen fits
  obtain ⟨u, next, complete, dlen, slice, trace⟩ := feed_frame (checksum body) legal hp minLen fits
  obtain ⟨phase, count, dlen', -⟩ := complete.stepped_fields (checksum body)
  have slice' := complete.stepped_body_slice (checksum body)
  have out := complete.stepped_frameOut (b := checksum body)
  rw [dlen, slice] at slice' out
  obtain ⟨-, -, one_le, -⟩ := legal
  rw [out (by omega) ((sum8_add_mod_eq_iff body _).mpr (checksum_toNat body))] at trace
  rw [frameBytes_eq]
  exact ⟨stepped (checksum body) u, next, phase, by rw [dlen', dlen], by rw [count, dlen], slice', trace⟩

/-- Replacing one byte by another changes the sum: two bytes differ by less than 256. -/
theorem sum8_set_ne {l : List Byte} {j : Nat} {x y : Byte} (at_j : l[j]? = some x) (ne : y ≠ x) :
    sum8 (l.set j y) ≠ sum8 l := by
  obtain ⟨lt, rfl⟩ := List.getElem?_eq_some_iff.mp at_j
  have around : l = l.take j ++ l[j] :: l.drop (j + 1) := by simp
  have toNat_ne : y.toNat ≠ l[j].toNat := mt BitVec.eq_of_toNat_eq ne
  have y_lt := y.isLt
  have x_lt := l[j].isLt
  rw [List.set_eq_take_append_cons_drop, if_pos lt]
  conv_rhs => rw [around]
  simp only [sum8, List.map_append, List.map_cons, List.sum_append, List.sum_cons]
  omega

/-- The sum that validation takes is that of the body and the checksum byte together. -/
theorem sum8_concat (body : List Byte) (c : Byte) : sum8 (body ++ [c]) = (sum8 body + c.toNat) % 256 := by
  simp [sum8]

theorem flipBit_ne (x : Byte) {k : Nat} (hk : k < 8) : x ^^^ ((1 : Byte) <<< k) ≠ x := by
  have bit : ∀ k < 8, (1 : Byte) <<< k ≠ 0 := by decide
  intro same
  apply bit k hk
  simpa using same

/-- A frame whose last byte is not the checksum of its body is discarded at that byte (41_decoder.md R127). -/
theorem feed_frame_of_mismatch {s : State} {body : List Byte} {c : Byte} (legal : s.params.Legal)
    (hp : s.phase = .awaitingStart) (minLen : s.params.minLen ≤ body.length) (fits : body.length + 1 ≤ s.params.rxBufCap)
    (invalid : (sum8 body + c.toNat) % 256 ≠ 0xFF) :
    ∃ t, feed (frameHeader body.length ++ (body ++ [c])) s = .next t ∧ t.phase = .awaitingStart ∧
      t.rxReason = .checksumMismatch ∧
      frameTrace (frameHeader body.length ++ (body ++ [c])) s = List.replicate (body.length + 4) none := by
  obtain ⟨u, next, complete, dlen, slice, trace⟩ := feed_frame c legal hp minLen fits
  rw [stepped_mismatch complete (by rw [dlen, slice]; exact invalid)] at next trace
  refine ⟨_, next, rfl, rfl, ?_⟩
  rw [trace, State.discard_frameOut, List.replicate_succ' (n := body.length + 3)]

/-- Settles O48: the flipped bytes are again a body and a last byte, and their sum is not the valid frame's. -/
theorem singleBitFlipIsDiscarded : Obligations.SingleBitFlipIsDiscarded := by
  unfold Obligations.SingleBitFlipIsDiscarded
  intro s body flipped j k x legal hp minLen fits hk at_j hf
  have valid : sum8 (body ++ [checksum body]) = 0xFF := by
    rw [sum8_concat, sum8_add_mod_eq_iff, checksum_toNat]
  have sum_ne : sum8 flipped ≠ sum8 (body ++ [checksum body]) := by rw [hf]; exact sum8_set_ne at_j (flipBit_ne x hk)
  rw [valid] at sum_ne
  have length : flipped.length = body.length + 1 := by rw [hf]; simp
  rcases List.eq_nil_or_concat' flipped with rfl | ⟨body', c, rfl⟩
  · simp at length
  rw [List.length_append, List.length_singleton, Nat.add_right_cancel_iff] at length
  rw [← length] at minLen fits ⊢
  exact feed_frame_of_mismatch legal hp minLen fits (sum8_concat body' c ▸ sum_ne)

end Sys2Proof.Machine
end

section
/-! PROOFS. DISPATCH and its arms (42_dispatcher.md R150 to R153). An arm that applies does what DISPATCH does (`exec_arm`),
and the law of `dispatched` for the type and the length says what that is. -/

namespace Sys2Proof.Machine

open Sys2Proof

/-- DISPATCH writes no DecoderState (42_dispatcher.md R150). -/
theorem dispatched_sameDecoder (s : State) : SameDecoder s (dispatched s) :=
  ⟨⟨dispatched_phase s, dispatched_dlen s, dispatched_count s⟩, dispatched_buf s⟩

theorem dispatched_rxpkt_short {s : State} (type : s.bufRead 0 = 0x90) (short : s.dlen.toNat < 12) :
    dispatched s = s.discard .malformedShortBody := by
  rw [dispatched, if_pos type, if_pos short]

theorem dispatched_rxpkt {s : State} (type : s.bufRead 0 = 0x90) (long : 12 ≤ s.dlen.toNat) :
    dispatched s = s.emit (.receivedData (s.bufSlice 12 s.dlen.toNat)) := by
  rw [dispatched, if_pos type, if_neg (Nat.not_lt.mpr long)]

theorem dispatched_txstat_short {s : State} (type : s.bufRead 0 = 0x8B) (short : s.dlen.toNat < 7) :
    dispatched s = s.discard .malformedShortBody := by
  rw [dispatched, if_neg (by rw [type]; decide), if_pos type, if_pos short]

theorem dispatched_txstat {s : State} (type : s.bufRead 0 = 0x8B) (long : 7 ≤ s.dlen.toNat) :
    dispatched s = s.emit (.transmitStatus (decide (s.bufRead 5 = 0x00))) := by
  rw [dispatched, if_neg (by rw [type]; decide), if_pos type, if_neg (Nat.not_lt.mpr long)]
  rfl

theorem dispatched_unknown {s : State} (rxpkt : s.bufRead 0 ≠ 0x90) (txstat : s.bufRead 0 ≠ 0x8B) :
    dispatched s = s.discard .unknownFrameType := by
  rw [dispatched, if_neg rxpkt, if_neg txstat]

theorem State.discard_noOutput (s : State) (r : Reason) : NoOutput (s.discard r) := ⟨rfl, rfl, rfl⟩

/-- Settles O20: the header length decides between the two laws of `dispatched` for type 0x90. -/
theorem receivePacketArm : Obligations.ReceivePacketArm := by
  unfold Obligations.ReceivePacketArm
  intro s arm
  have type : s.bufRead 0 = 0x90 := arm.2
  refine ⟨dispatched s, exec_arm arm, dispatched_sameDecoder s, fun short => ?short, fun long => ?long⟩
  case short =>
    rw [dispatched_rxpkt_short type short]
    exact ⟨s.discard_noOutput _, rfl⟩
  case long =>
    rw [dispatched_rxpkt type long]
    exact ⟨s.emit_frameOut _, s.bufSlice_length 12 _, s.emit_rxReason _⟩

/-- Settles O21: the fixed layout's length decides between the two laws of `dispatched` for type 0x8B. -/
theorem transmitStatusArm : Obligations.TransmitStatusArm := by
  unfold Obligations.TransmitStatusArm
  intro s arm
  have type : s.bufRead 0 = 0x8B := arm.2
  refine ⟨dispatched s, exec_arm arm, dispatched_sameDecoder s, fun short => ?short, fun long => ?long⟩
  case short =>
    rw [dispatched_txstat_short type short]
    exact ⟨s.discard_noOutput _, rfl⟩
  case long =>
    rw [dispatched_txstat type long]
    exact ⟨s.emit_frameOut _, s.emit_rxReason _⟩

/-- The arm of a type that has none of its own discards the frame (42_dispatcher.md R153). -/
theorem exec_arm_unknown {s : State} {i : Instr} (arm : ArmApplies s i) (rxpkt : s.bufRead 0 ≠ 0x90)
    (txstat : s.bufRead 0 ≠ 0x8B) :
    ∃ t, exec i s = .next t ∧ SameDecoder s t ∧ NoOutput t ∧ t.rxReason = .unknownFrameType := by
  refine ⟨dispatched s, exec_arm arm, dispatched_sameDecoder s, ?_⟩
  rw [dispatched_unknown rxpkt txstat]
  exact ⟨s.discard_noOutput _, rfl⟩

/-- Settles O22: both rows stand for types other than 0x90 and 0x8B. -/
theorem unknownTypesAreDiscarded : Obligations.UnknownTypesAreDiscarded := by
  unfold Obligations.UnknownTypesAreDiscarded
  refine fun s => ⟨fun arm => ?txreq, fun ty arm => ?unknown⟩
  case txreq =>
    have type : s.bufRead 0 = 0x10 := arm.2
    exact exec_arm_unknown arm (by rw [type]; decide) (by rw [type]; decide)
  case unknown =>
    have ⟨_, type, rxpkt, txstat⟩ := arm
    exact exec_arm_unknown arm (by rwa [type]) (by rwa [type])

/-- Settles O23: the arm that the decoder reads from the type byte applies, so it does what DISPATCH does. -/
theorem dispatchRunsTheArmOfTheType : Obligations.DispatchRunsTheArmOfTheType := by
  unfold Obligations.DispatchRunsTheArmOfTheType
  exact fun s valid => ⟨(dispatch_eq valid).trans (exec_arm valid.armApplies).symm, valid.armApplies, dispatched s,
    dispatch_eq valid, dispatched_sameDecoder s⟩

end Sys2Proof.Machine
end

section
/-! PROOFS. The frames the block outputs (42_dispatcher.md R154, R155): only DISPATCH outputs one, the frame that the bytes of
the completed frame say (`dispatched_saysFrame`), and it is routed to one channel in the same operation. -/

namespace Sys2Proof.Machine

open Sys2Proof

/-- `f` is the frame that the bytes of the completed frame in `s` say: its type is recognised and its length suffices
(42_dispatcher.md R151, R152). -/
def SaysFrame (s : State) (f : ParsedFrame) : Prop :=
  (s.bufRead 0 = 0x90 ∧ 12 ≤ s.dlen.toNat ∧ f = .receivedData (s.bufSlice 12 s.dlen.toNat)) ∨
    (s.bufRead 0 = 0x8B ∧ 7 ≤ s.dlen.toNat ∧ f = .transmitStatus (decide (s.bufRead 5 = 0x00)))

/-- DISPATCH outputs no other frame than the one the completed frame says. -/
theorem dispatched_saysFrame {s : State} {f : ParsedFrame} (out : (dispatched s).frameOut = some f) : SaysFrame s f := by
  revert out
  refine dispatched_cases (P := fun t => t.frameOut = some f → SaysFrame s f) s ?short_rxpkt ?rxpkt ?short_txstat ?txstat
    ?unknown
  case rxpkt =>
    intro type long out
    rw [State.emit_frameOut] at out
    exact .inl ⟨type, Nat.not_lt.mp long, (Option.some.inj out).symm⟩
  case txstat =>
    intro type long out
    rw [State.emit_frameOut] at out
    exact .inr ⟨type, Nat.not_lt.mp long, (Option.some.inj out).symm⟩
  all_goals simp

/-- STEP outputs a frame only where its byte completes one with a valid checksum, and then it is DISPATCH's. -/
theorem stepped_dispatches_of_frameOut {b : Byte} {s : State} {f : ParsedFrame} (out : (stepped b s).frameOut = some f) :
    Completing s ∧ (sum8 (s.bufSlice 0 s.dlen.toNat) + b.toNat) % 256 = 0xFF ∧
      stepped b s = dispatched (completedBy s b) := by
  suffices complete : Completing s ∧ (sum8 (s.bufSlice 0 s.dlen.toNat) + b.toNat) % 256 = 0xFF from
    ⟨complete.1, complete.2, stepped_dispatch complete.1 complete.2⟩
  revert out
  refine stepped_cases (P := fun t => t.frameOut = some f → Completing s ∧
    (sum8 (s.bufSlice 0 s.dlen.toNat) + b.toNat) % 256 = 0xFF) b s ?start ?ignore ?high ?low_discard ?low_accept ?forced
    ?body ?dispatch ?mismatch
  case dispatch => exact fun complete valid _ => ⟨complete, valid⟩
  all_goals simp

/-- The only row for the byte that completes a frame is RX_COMPLETE (30_encoding.md R76). -/
theorem Completing.row_eq {s : State} {b : Byte} {i : Instr} (complete : Completing s) (row : RowApplies s b i) :
    i = .rxComplete b := by
  obtain ⟨_, -, unique, -⟩ := stepRunsTheOneRowThatApplies s b
  exact (unique i row).trans (unique (.rxComplete b) ⟨rfl, complete⟩).symm

/-- Of the frame-type rows, FT_RXPKT alone applies to type 0x90 and FT_TXSTAT alone to type 0x8B. -/
theorem ArmApplies.type_cases {s : State} {i : Instr} (arm : ArmApplies s i) :
    (i = .ftRxpkt ∧ s.bufRead 0 = 0x90) ∨ (i = .ftTxstat ∧ s.bufRead 0 = 0x8B) ∨
      (s.bufRead 0 ≠ 0x90 ∧ s.bufRead 0 ≠ 0x8B) := by
  cases i with
  | ftRxpkt => exact .inl ⟨rfl, arm.2⟩
  | ftTxstat => exact .inr (.inl ⟨rfl, arm.2⟩)
  | ftTxreq => obtain ⟨-, type⟩ := arm; exact .inr (.inr (by rw [type]; decide))
  | ftUnknown _ => obtain ⟨-, rfl, other⟩ := arm; exact .inr (.inr other)
  | step _ | encode _ _ | reset => exact arm.elim
  | rxStart | rxIgnore _ | rxLenHi _ | rxLenLo _ | rxBody _ | rxComplete _ | rxForcedReset _ => exact arm.elim

/-- What the completed frame says, apart from its type, stood in the buffer before its last byte: the checksum byte is stored
behind it (20_memory.md R45). -/
theorem Completing.saysFrame_completedBy {s : State} {b : Byte} {f : ParsedFrame} (complete : Completing s)
    (said : SaysFrame (completedBy s b) f) :
    ((completedBy s b).bufRead 0 = 0x90 ∧ 12 ≤ s.dlen.toNat ∧ f = .receivedData (s.bufSlice 12 s.dlen.toNat)) ∨
      ((completedBy s b).bufRead 0 = 0x8B ∧ 7 ≤ s.dlen.toNat ∧ f = .transmitStatus (decide (s.bufRead 5 = 0x00))) := by
  obtain ⟨-, count, -⟩ := complete
  rcases said with ⟨type, long, frame⟩ | ⟨type, long, frame⟩ <;> rw [completedBy_dlen] at long
  · rw [completedBy_dlen, completedBy_slice count] at frame
    exact .inl ⟨type, long, frame⟩
  · rw [completedBy_bufRead_other s b (by omega)] at frame
    exact .inr ⟨type, long, frame⟩

/-- Settles O27: what outputs a frame does what DISPATCH does, as STEP or its row RX_COMPLETE in the state with the byte stored,
or as the arm of the type. -/
theorem frameOnlyAfterAValidChecksum : Obligations.FrameOnlyAfterAValidChecksum := by
  unfold Obligations.FrameOnlyAfterAValidChecksum
  intro i s t f next out
  rcases exec_next_cases next with ⟨b, rfl, hi⟩ | ⟨addr, payload, -, rfl⟩ | ⟨-, rfl⟩ | ⟨arm, rfl⟩
  · obtain ⟨complete, valid, eq⟩ := stepped_dispatches_of_frameOut out
    rw [eq] at out ⊢
    refine .inl ⟨b, hi.imp_right complete.row_eq, complete, valid, dispatched_phase _, ?_⟩
    rw [dispatched_bufRead]
    exact complete.saysFrame_completedBy (dispatched_saysFrame out)
  · simp at out
  · simp at out
  · refine .inr ?_
    rcases dispatched_saysFrame out with ⟨type, long, frame⟩ | ⟨type, long, frame⟩
    · have hi : i = .ftRxpkt := by simpa [type] using arm.type_cases
      exact .inl ⟨hi, arm, long, frame⟩
    · have hi : i = .ftTxstat := by simpa [type] using arm.type_cases
      exact .inr ⟨hi, arm, long, frame⟩

/-- The outputs of one operation agree: with no frame neither channel is written, and a frame is on its own channel alone
(42_dispatcher.md R155). -/
def RoutesToOneChannel (t : State) : Prop :=
  (t.frameOut = none → t.rxData = none ∧ t.txStatus = none) ∧
    (∀ p, t.frameOut = some (.receivedData p) → t.rxData = some p ∧ t.txStatus = none) ∧
    (∀ ok, t.frameOut = some (.transmitStatus ok) → t.rxData = none ∧ t.txStatus = some ok)

theorem NoOutput.routesToOneChannel {t : State} (quiet : NoOutput t) : RoutesToOneChannel t := by
  obtain ⟨frameOut, channels⟩ := quiet
  simp [RoutesToOneChannel, frameOut, channels]

theorem State.emit_routesToOneChannel (s : State) (f : ParsedFrame) : RoutesToOneChannel (s.emit f) := by
  cases f <;> simp [RoutesToOneChannel]

theorem dispatched_routesToOneChannel (s : State) : RoutesToOneChannel (dispatched s) := by
  refine dispatched_cases s ?short_rxpkt ?rxpkt ?short_txstat ?txstat ?unknown
  case rxpkt | txstat => exact fun _ _ => s.emit_routesToOneChannel _
  all_goals exact fun _ _ => (s.discard_noOutput _).routesToOneChannel

theorem stepped_routesToOneChannel (b : Byte) (s : State) : RoutesToOneChannel (stepped b s) := by
  refine stepped_cases b s ?start ?ignore ?high ?low_discard ?low_accept ?forced ?body ?dispatch ?mismatch
  case dispatch => exact fun _ _ => dispatched_routesToOneChannel _
  all_goals intros; exact NoOutput.routesToOneChannel ⟨rfl, rfl, rfl⟩

/-- Settles O28: ENCODE and RESET output nothing, and STEP and DISPATCH route what they emit. -/
theorem eachFrameGoesToOneHandlerChannel : Obligations.EachFrameGoesToOneHandlerChannel := by
  unfold Obligations.EachFrameGoesToOneHandlerChannel
  intro i s t next
  rcases exec_next_cases next with ⟨b, rfl, -⟩ | ⟨addr, payload, -, rfl⟩ | ⟨-, rfl⟩ | ⟨-, rfl⟩
  · exact stepped_routesToOneChannel b s
  · exact (encoded_noOutput addr payload s).routesToOneChannel
  · exact NoOutput.routesToOneChannel ⟨rfl, rfl, rfl⟩
  · exact dispatched_routesToOneChannel s

end Sys2Proof.Machine
end

section
/-! PROOFS. The block's own frames, fed back to its input (42_dispatcher.md R153). -/

namespace Sys2Proof.Machine

open Sys2Proof

/-- A whole frame of a type that the decoder does not recognise is consumed and discarded at its last byte. -/
theorem feed_frameBytes_of_unknown {s : State} {type : Byte} {rest : List Byte} (legal : s.params.Legal)
    (hp : s.phase = .awaitingStart) (minLen : s.params.minLen ≤ (type :: rest).length)
    (fits : (type :: rest).length + 1 ≤ s.params.rxBufCap) (rxpkt : type ≠ 0x90) (txstat : type ≠ 0x8B) :
    ∃ t, feed (frameBytes (type :: rest)) s = .next t ∧ t.phase = .awaitingStart ∧ t.rxReason = .unknownFrameType ∧
      frameTrace (frameBytes (type :: rest)) s = List.replicate (rest.length + 5) none := by
  obtain ⟨u, next, complete, dlen, slice, trace⟩ := feed_frame (checksum (type :: rest)) legal hp minLen fits
  have valid := (sum8_add_mod_eq_iff (type :: rest) _).mpr (checksum_toNat (type :: rest))
  have first : u.bufRead 0 = type := by
    rw [State.bufSlice_cons u (by simp)] at slice
    exact (List.cons.inj slice).1
  have read : (completedBy u (checksum (type :: rest))).bufRead 0 = type := by
    rw [completedBy_bufRead_other u _ (by rw [complete.2.1, dlen]; simp), first]
  rw [stepped_dispatch complete (by rw [dlen, slice, valid]),
    dispatched_unknown (by rw [read]; exact rxpkt) (by rw [read]; exact txstat)] at next trace
  rw [frameBytes_eq]
  refine ⟨_, next, rfl, rfl, ?_⟩
  rw [trace, State.discard_frameOut, List.length_cons, ← List.replicate_succ']

/-- Settles O47: ENCODE leaves the decoder in AwaitingStart, and its frame is of type 0x10. -/
theorem loopbackIsDiscarded : Obligations.LoopbackIsDiscarded := by
  unfold Obligations.LoopbackIsDiscarded
  intro s e t addr payload f legal hp encodes ok fits fed
  cases (exec_encode addr payload s).symm.trans encodes
  obtain ⟨-, rfl⟩ := (encoded_encResult_ok_iff addr payload s f).mp ok
  obtain ⟨rest, body⟩ : ∃ rest, txBody addr payload = 0x10 :: rest := ⟨_, txBody_eq addr payload⟩
  have length : rest.length = payload.length + 13 := by
    simpa [body] using txBody_length addr payload
  have ⟨_, _, _, minLen⟩ := legal
  rw [body] at fed ⊢
  obtain ⟨t', fed', phase, reason, trace⟩ := feed_frameBytes_of_unknown (s := encoded addr payload s) (type := 0x10)
    (rest := rest) (by rwa [encoded_params]) (by rwa [encoded_phase]) (by rw [encoded_params, List.length_cons]; omega)
    (by rw [encoded_params, List.length_cons]; omega) (by decide) (by decide)
  cases fed'.symm.trans fed
  exact ⟨phase, reason, by rw [trace, length]⟩

end Sys2Proof.Machine
end

section
/-! PROOFS. The owning loop (42_dispatcher.md R156): one pass is one STEP of the next byte, and STEP does not read what is
still to come. -/

namespace Sys2Proof.Machine

open Sys2Proof

/-- A pass of the loop with a byte available is STEP of that byte. -/
theorem step_of_poll {s : State} {b : Byte} {bs : List Byte} {ts : List Turn} (legal : s.params.Legal)
    (next : s.turns = .poll :: ts) (available : s.source = b :: bs) :
    step s = exec (.step b) { s with turns := ts, source := bs } := by
  have taken : nextCommand s = (some (.ofStep b), { s with turns := ts, source := bs }) := by
    simp only [nextCommand, next, available]
  simp only [step, if_pos legal, taken]
  rfl

/-- A pass of the loop with no byte available is idle. -/
theorem step_of_poll_empty {s : State} {ts : List Turn} (legal : s.params.Legal) (next : s.turns = .poll :: ts)
    (empty : s.source = []) : step s = .next { s with turns := ts }.clearOutputs := by
  have taken : nextCommand s = (none, { s with turns := ts }) := by simp only [nextCommand, next, empty]
  simp only [step, if_pos legal, taken]

/-- Settles O8, by the two laws of a poll. -/
theorem pollPresentsTheNextByteOnce : Obligations.PollPresentsTheNextByteOnce := by
  unfold Obligations.PollPresentsTheNextByteOnce
  intro s ts legal next
  exact ⟨fun b bs available => step_of_poll legal next available,
    fun empty => ⟨_, step_of_poll_empty legal next empty, ⟨⟨rfl, rfl, rfl⟩, rfl⟩, ⟨rfl, rfl, rfl⟩, rfl, empty, rfl, rfl⟩⟩

/-- The state with another input stream and another schedule: what is still to come. -/
def State.withPending (s : State) (source : List Byte) (turns : List Turn) : State :=
  { s with source := source, turns := turns }

theorem dispatched_withPending (s : State) (source : List Byte) (turns : List Turn) :
    dispatched (s.withPending source turns) = (dispatched s).withPending source turns := by
  simp only [dispatched, apply_ite (State.withPending · source turns)]
  rfl

/-- STEP neither reads nor writes what is still to come: in every phase it makes the same tests and the same writes. -/
theorem stepped_withPending (b : Byte) (s : State) (source : List Byte) (turns : List Turn) :
    stepped b (s.withPending source turns) = (stepped b s).withPending source turns := by
  have phase : (s.withPending source turns).phase = s.phase := rfl
  cases hp : s.phase <;>
    simp only [stepped, phase, hp, apply_ite (State.withPending · source turns), ← dispatched_withPending] <;> rfl

theorem core_run_succ {n : Nat} {s t : State} (next : step s = .next t) : core.run (n + 1) s = core.run n t := by
  simp only [Host.Core.run, show core.step s = .next t from next]

/-- Settles O51, by induction on the bytes: the first poll is STEP of the first byte, after which the other bytes and their
polls are what is still to come. -/
theorem loopFeedsEveryByteInOrder : Obligations.LoopFeedsEveryByteInOrder := by
  unfold Obligations.LoopFeedsEveryByteInOrder
  intro bs rest ts
  induction bs with
  | nil =>
    intro s _ source turns
    refine ⟨s, ?_, rfl⟩
    rw [List.nil_append] at source
    rw [List.length_nil, List.replicate_zero, List.nil_append] at turns
    rw [← source, ← turns, feed_nil]
  | cons b bs ih =>
    intro s legal source turns
    rw [List.length_cons, List.replicate_succ, List.cons_append] at turns
    have poll := (step_of_poll legal turns source).trans (exec_step b _)
    obtain ⟨t, fed, run⟩ := ih (stepped b (s.withPending (bs ++ rest) (List.replicate bs.length .poll ++ ts)))
      (by rw [stepped_params]; exact legal) (by rw [stepped_source]; rfl) (by rw [stepped_turns]; rfl)
    refine ⟨t, ?_, (core_run_succ poll).trans run⟩
    rw [feed_cons]
    rw [stepped_withPending] at fed
    exact (congrArg (feed bs) (stepped_withPending b s rest ts)).trans fed

end Sys2Proof.Machine
end

section
/-! PROOFS. What stops a step (60_exceptions.md R170, R181, R186): with nothing scheduled the block is idle, and of what may be
scheduled only the reserved selector is refused. -/

namespace Sys2Proof.Machine

open Sys2Proof

/-- With nothing scheduled a legally built block is idle. -/
theorem step_of_idle {s : State} (legal : s.params.Legal) (idle : s.turns = []) : step s = .next s.clearOutputs := by
  have none_taken : nextCommand s = (none, s) := by simp only [nextCommand, idle]
  simp only [step, if_pos legal, none_taken]

/-- Settles O9: an idle turn clears the momentary outputs alone. -/
theorem idleKeepsDecoderState : Obligations.IdleKeepsDecoderState := by
  unfold Obligations.IdleKeepsDecoderState
  exact fun s legal idle => ⟨s.clearOutputs, step_of_idle legal idle, ⟨⟨rfl, rfl, rfl⟩, rfl⟩, ⟨rfl, rfl, rfl⟩, rfl, rfl,
    rfl, idle⟩

/-- The decoder rejects no other selector than 0b11: the three others have an operation each (30_encoding.md R66). -/
theorem sel_of_decodeCommand_reserved {c : CmdWord} (rejected : decodeCommand c = .error .reservedSelector) :
    c.sel = 0b11 := by
  unfold decodeCommand at rejected
  split_ifs at rejected with step encode reset
  bv_omega

/-- Settles O10, along the schedule: an idle turn and a poll never stop, and a transaction stops only where the decoder rejects
it. -/
theorem onlyTheReservedSelectorStops : Obligations.OnlyTheReservedSelectorStops := by
  unfold Obligations.OnlyTheReservedSelectorStops
  intro s legal
  match next : s.turns with
  | [] => exact .inl ⟨_, step_of_idle legal next⟩
  | .poll :: ts =>
    cases available : s.source with
    | nil => exact .inl ⟨_, step_of_poll_empty legal next available⟩
    | cons b bs => exact .inl ⟨_, (step_of_poll legal next available).trans (exec_step b _)⟩
  | .command c :: ts =>
    obtain ⟨runs, refuses⟩ := step_of_command legal next
    rcases decodeCommand_cases c with ⟨b, decoded⟩ | ⟨addr, payload, decoded⟩ | decoded | rejected
    · exact .inl ⟨_, (runs _ decoded).trans (exec_step b _)⟩
    · exact .inl ⟨_, (runs _ decoded).trans (exec_encode addr payload _)⟩
    · exact .inl ⟨_, (runs _ decoded).trans (exec_reset _)⟩
    · exact .inr ⟨refuses _ rejected, c, ts, rfl, sel_of_decodeCommand_reserved rejected⟩

end Sys2Proof.Machine
end

section
/-! PROOFS. The five decoder conditions (60_exceptions.md R170 to R179). `DiscardCause` lists what causes each; the reason that
STEP records has its cause (`stepped_discardCause`), and a cause leads STEP to its reason (`DiscardCause.rxReason_eq`). -/

namespace Sys2Proof.Machine

open Sys2Proof

/-- What causes a STEP of `b` from `s` to `t` to record a reason (60_exceptions.md R170); recording none asks for no cause. -/
def DiscardCause (s : State) (b : Byte) (t : State) : Reason → Prop
  | .none => True
  | .malformedLength => s.phase = .awaitingLengthLow ∧
      ((dlenOrLow s.dlen b).toNat + 1 > s.params.rxBufCap ∨ (dlenOrLow s.dlen b).toNat < s.params.minLen)
  | .checksumMismatch => Completing s ∧ (sum8 (s.bufSlice 0 s.dlen.toNat) + b.toNat) % 256 ≠ 0xFF
  | .unknownFrameType => Completing s ∧ (sum8 (s.bufSlice 0 s.dlen.toNat) + b.toNat) % 256 = 0xFF ∧
      t.bufRead 0 ≠ 0x90 ∧ t.bufRead 0 ≠ 0x8B
  | .malformedShortBody => Completing s ∧ (sum8 (s.bufSlice 0 s.dlen.toNat) + b.toNat) % 256 = 0xFF ∧
      ((t.bufRead 0 = 0x90 ∧ s.dlen.toNat < 12) ∨ (t.bufRead 0 = 0x8B ∧ s.dlen.toNat < 7))
  | .invariantReset => s.phase = .accumulatingBody ∧ (s.count > s.dlen.toNat ∨ s.count ≥ s.params.rxBufCap)

/-- The reason that DISPATCH records in a STEP that completes a valid frame has its cause. -/
theorem dispatched_discardCause {s : State} {b : Byte} (complete : Completing s)
    (valid : (sum8 (s.bufSlice 0 s.dlen.toNat) + b.toNat) % 256 = 0xFF) :
    DiscardCause s b (dispatched (completedBy s b)) (dispatched (completedBy s b)).rxReason := by
  refine dispatched_cases (P := fun t => DiscardCause s b t t.rxReason) _ ?short_rxpkt ?rxpkt ?short_txstat ?txstat ?unknown
  case short_rxpkt => exact fun type short => ⟨complete, valid, .inl ⟨type, short⟩⟩
  case short_txstat => exact fun type short => ⟨complete, valid, .inr ⟨type, short⟩⟩
  case rxpkt | txstat => intros; trivial
  case unknown => exact fun rxpkt txstat => ⟨complete, valid, rxpkt, txstat⟩

/-- The reason that STEP records has its cause. -/
theorem stepped_discardCause (b : Byte) (s : State) : DiscardCause s b (stepped b s) (stepped b s).rxReason := by
  refine stepped_cases (P := fun t => DiscardCause s b t t.rxReason) b s ?start ?ignore ?high ?low_discard ?low_accept
    ?forced ?body ?dispatch ?mismatch
  case low_discard => exact fun hp rejected => ⟨hp, rejected⟩
  case forced => exact fun hp violated => ⟨hp, violated⟩
  case dispatch => exact dispatched_discardCause
  case mismatch => exact fun complete invalid => ⟨complete, invalid⟩
  all_goals intros; trivial

/-- A cause leads STEP to its reason. -/
theorem DiscardCause.rxReason_eq {s : State} {b : Byte} {r : Reason} (cause : DiscardCause s b (stepped b s) r)
    (recorded : r ≠ .none) : (stepped b s).rxReason = r := by
  cases r with
  | none => exact absurd rfl recorded
  | malformedLength =>
    obtain ⟨hp, rejected⟩ := cause
    rw [stepped_low_discard hp rejected]; rfl
  | checksumMismatch =>
    obtain ⟨complete, invalid⟩ := cause
    rw [stepped_mismatch complete invalid]; rfl
  | unknownFrameType =>
    obtain ⟨complete, valid, rxpkt, txstat⟩ := cause
    rw [stepped_dispatch complete valid, dispatched_bufRead] at rxpkt txstat
    rw [stepped_dispatch complete valid, dispatched_unknown rxpkt txstat]; rfl
  | malformedShortBody =>
    obtain ⟨complete, valid, short⟩ := cause
    rw [stepped_dispatch complete valid] at short ⊢
    rw [dispatched_bufRead] at short
    rcases short with ⟨type, short⟩ | ⟨type, short⟩
    · rw [dispatched_rxpkt_short type short]; rfl
    · rw [dispatched_txstat_short type short]; rfl
  | invariantReset =>
    obtain ⟨hp, violated⟩ := cause
    rw [stepped_forced b hp violated]; rfl

/-- STEP records a reason exactly where its cause is. -/
theorem stepped_rxReason_eq_iff (b : Byte) (s : State) {r : Reason} (recorded : r ≠ .none) :
    (stepped b s).rxReason = r ↔ DiscardCause s b (stepped b s) r :=
  ⟨fun h => h ▸ stepped_discardCause b s, fun cause => cause.rxReason_eq recorded⟩

/-- Settles O25: each clause is `stepped_rxReason_eq_iff` of its reason. -/
theorem reasonsFollowTheTaxonomy : Obligations.ReasonsFollowTheTaxonomy := by
  unfold Obligations.ReasonsFollowTheTaxonomy
  intro s b t next
  cases (exec_step b s).symm.trans next
  exact ⟨stepped_rxReason_eq_iff b s (r := .malformedLength) nofun,
    stepped_rxReason_eq_iff b s (r := .checksumMismatch) nofun,
    stepped_rxReason_eq_iff b s (r := .unknownFrameType) nofun,
    stepped_rxReason_eq_iff b s (r := .malformedShortBody) nofun,
    stepped_rxReason_eq_iff b s (r := .invariantReset) nofun⟩

/-- What entry of a decoder condition leaves: AwaitingStart and no output; `dlen` as it was but for the length byte just taken,
and where no byte was stored, `count` and `buf` as they were (60_exceptions.md R178). -/
def Discarded (s t : State) : Prop :=
  t.phase = .awaitingStart ∧ NoOutput t ∧ (t.rxReason ≠ .malformedLength → t.dlen = s.dlen) ∧
    (t.rxReason = .malformedLength ∨ t.rxReason = .invariantReset → t.count = s.count ∧ t.buf = s.buf)

/-- A completed frame is discarded with its checksum byte stored. -/
theorem completedBy_discarded (s : State) (b : Byte) {r : Reason} (length : r ≠ .malformedLength)
    (forced : r ≠ .invariantReset) : Discarded s ((completedBy s b).discard r) :=
  ⟨rfl, State.discard_noOutput _ r, fun _ => rfl, fun unstored => absurd unstored (not_or.mpr ⟨length, forced⟩)⟩

/-- DISPATCH discards the frame or records no reason. -/
theorem dispatched_discarded {s : State} {b : Byte} (recorded : (dispatched (completedBy s b)).rxReason ≠ .none) :
    Discarded s (dispatched (completedBy s b)) := by
  revert recorded
  refine dispatched_cases (P := fun t => t.rxReason ≠ .none → Discarded s t) _ ?short_rxpkt ?rxpkt ?short_txstat ?txstat
    ?unknown
  case rxpkt | txstat => exact fun _ _ recorded => absurd rfl recorded
  all_goals exact fun _ _ _ => completedBy_discarded s b nofun nofun

/-- A STEP that records a reason discards. -/
theorem stepped_discarded {b : Byte} {s : State} (recorded : (stepped b s).rxReason ≠ .none) :
    Discarded s (stepped b s) := by
  revert recorded
  refine stepped_cases (P := fun t => t.rxReason ≠ .none → Discarded s t) b s ?start ?ignore ?high ?low_discard ?low_accept
    ?forced ?body ?dispatch ?mismatch
  case low_discard =>
    exact fun _ _ _ => ⟨rfl, State.discard_noOutput _ _, fun other => absurd rfl other, fun _ => ⟨rfl, rfl⟩⟩
  case forced => exact fun _ _ _ => ⟨rfl, State.discard_noOutput _ _, fun _ => rfl, fun _ => ⟨rfl, rfl⟩⟩
  case dispatch => exact fun _ _ => dispatched_discarded
  case mismatch => exact fun _ _ _ => completedBy_discarded s b nofun nofun
  all_goals simp

/-- Settles O26: the flag is clear since the phase is AwaitingStart (10_state.md R25). -/
theorem everyDiscardReturnsToAwaitingStart : Obligations.EveryDiscardReturnsToAwaitingStart := by
  unfold Obligations.EveryDiscardReturnsToAwaitingStart
  intro s b t next recorded
  cases (exec_step b s).symm.trans next
  obtain ⟨phase, quiet, dlen, unstored⟩ := stepped_discarded recorded
  exact ⟨phase, by rw [State.parsingInProgress, phase]; rfl, quiet, dlen, unstored⟩

end Sys2Proof.Machine
end

section
/-! PROOFS. RESET, and what rescues the frame after a cut-short one (70_reset_and_hazards.md R190, R195): RESET and the missing
number of bytes both lead to AwaitingStart, and from there a valid frame is received whole. -/

namespace Sys2Proof.Machine

open Sys2Proof

/-- Settles O31: RESET writes the three registers and clears the outputs, and each clause reads one field after that. -/
theorem resetReturnsToTheInitialState : Obligations.ResetReturnsToTheInitialState := by
  unfold Obligations.ResetReturnsToTheInitialState
  exact fun s => ⟨_, exec_reset s, rfl, rfl, rfl, ⟨rfl, rfl, rfl⟩, rfl, rfl, rfl, rfl, rfl⟩

/-- The outputs while a valid frame is fed from AwaitingStart: what its body says, at its last byte (41_decoder.md R129). -/
theorem frameTrace_frameBytes {s : State} {body : List Byte} (legal : s.params.Legal) (hp : s.phase = .awaitingStart)
    (minLen : s.params.minLen ≤ body.length) (fits : body.length + 1 ≤ s.params.rxBufCap) :
    frameTrace (frameBytes body) s = List.replicate (body.length + 3) none ++ [parsedBody body] := by
  obtain ⟨t, -, -, -, -, -, trace⟩ := wholeFrameIsReceivedAtItsLastByte s body legal hp minLen fits
  exact trace

/-- Settles O49: after RESET the decoder is in AwaitingStart, with the parameters it was built with. -/
theorem resetRescuesTheNextFrame : Obligations.ResetRescuesTheNextFrame := by
  unfold Obligations.ResetRescuesTheNextFrame
  intro s body legal minLen fits
  obtain ⟨r, next, phase, -⟩ := resetReturnsToTheInitialState s
  obtain ⟨params, -⟩ := exec_params_source_turns next
  rw [← params] at legal minLen fits
  exact ⟨r, next, frameTrace_frameBytes legal phase minLen fits⟩

/-- Settles O50: the gap ends the cut-short frame (O45), and the noise after it leaves the decoder in AwaitingStart (O43). -/
theorem gapRescuesTheNextFrame : Obligations.GapRescuesTheNextFrame := by
  unfold Obligations.GapRescuesTheNextFrame
  intro s gap noise body inv hp missing quiet minLen fits
  obtain ⟨u, ended, awaiting, -⟩ := declaredLengthAlwaysEndsTheFrame gap s inv hp missing
  obtain ⟨t, ignored, ⟨⟨kept, -⟩, -⟩, -⟩ := noiseIsIgnored noise u awaiting quiet
  have next : feed (gap ++ noise) s = .next t := (feed_append ended noise).trans ignored
  have legal := inv.legal
  rw [← feed_params next] at legal minLen fits
  exact ⟨t, next, frameTrace_frameBytes legal (kept.trans awaiting) minLen fits⟩

end Sys2Proof.Machine
end
